-- ==== Sys2Proof/Word.lean ====
section
/-! DEFINITION. The words of the block (00_scope.md R9, R10): bytes, device addresses, the 16-bit fields of a control
transfer, start addresses, and the width of a view's address prefix. All numbers are unsigned. -/

namespace Sys2Proof

/-- One byte; bit 0 is the least significant (00_scope.md R10). -/
abbrev Byte := BitVec 8

/-- An I2C device address, `DEV_ADDR_BITS` = 7 bits (00_scope.md R9, 20_memory.md R61). -/
abbrev DevAddr := BitVec 7

/-- The command code of a control transfer, `CODE_BITS` = 8 bits (00_scope.md R9). -/
abbrev Code := BitVec 8

/-- A 16-bit field: `VALUE_BITS`, `INDEX_BITS`, `DLEN_BITS` of a control transfer, and the lengths and line counts of the
upstream ports (00_scope.md R9, 10_state.md R44, R45). -/
abbrev Half := BitVec 16

/-- The `start_address` field of a MEM request, `SA_BITS` = 32 bits (00_scope.md R9). -/
abbrev StartAddr := BitVec 32

/-- The name of a view, which selects its MEM port (30_encoding.md R123). The spec gives names no form; the model numbers
them (log 10, DESIGN CHOICE). -/
abbrev ViewId := Nat

/-- A handle of the transport layer; the source gives it no form, the model numbers handles (10_state.md R30; log 6). -/
abbrev Handle := Nat

/-- `address_width_bytes` of a view: 1, 2, 3 or 4 and nothing else (10_state.md R40). -/
inductive AddrWidth where
  | one | two | three | four
deriving DecidableEq, Repr

/-- How many bytes the address prefix has. -/
def AddrWidth.bytes : AddrWidth → Nat
  | .one => 1
  | .two => 2
  | .three => 3
  | .four => 4

/-- The width with this many bytes, if there is one (10_state.md R40). -/
def AddrWidth.ofNat? : Nat → Option AddrWidth
  | 1 => some .one
  | 2 => some .two
  | 3 => some .three
  | 4 => some .four
  | _ => none

end Sys2Proof
end

