-- ==== Sys2Proof/Config.lean ====
section
/-! DEFINITION. The parameters of the block (00_scope.md R9) and the values the spec leaves free. The numeric literals of
the source's command table are named constants here (93_implementation_defined.md U12: they are unaudited, UNVERIFIED, and
a corrected literal is a change of one line; log 15). -/

namespace Sys2Proof.Config

/-- Command code of I2C write (30_encoding.md R103). -/
def codeI2cWrite : Code := 0xC6#8
/-- Command code of I2C read (30_encoding.md R103). -/
def codeI2cRead : Code := 0xC7#8
/-- Command code of Get status (30_encoding.md R103). -/
def codeGetStatus : Code := 0xC8#8
/-- Command code of Reset-read and Reset-write (30_encoding.md R103). -/
def codeReset : Code := 0xC9#8
/-- Value field of Reset-read (30_encoding.md R110, 90_conflicts.md C1). -/
def valueResetRead : Half := 0#16
/-- Value field of Reset-write (30_encoding.md R110, 90_conflicts.md C1). -/
def valueResetWrite : Half := 1#16
/-- Value field of Get status (30_encoding.md R110). -/
def valueGetStatus : Half := 0#16

/-- Where the device address stands in the value field (30_encoding.md R104). -/
abbrev addrShift : Nat := 8
/-- Where the stop bit stands in the value field (30_encoding.md R104). -/
abbrev stopShift : Nat := 1
/-- Where the start bit stands in the value field (30_encoding.md R104). -/
abbrev startShift : Nat := 0

/-- `STATUS_LEN`: bytes of the status word (00_scope.md R9). -/
abbrev statusLen : Nat := 3
/-- `COMPLETION_LEN`: bytes of the completion word (00_scope.md R9). -/
abbrev completionLen : Nat := 3
/-- `DUMP_BLOCK`: bytes of one DUMP element (00_scope.md R9). -/
abbrev dumpBlock : Nat := 32
/-- `LEN_MAX`: the longest payload or read of one engine transaction (00_scope.md R9). -/
abbrev lenMax : Nat := 65535

/-- A view's default write policy, start bit (10_state.md R40). -/
def defaultWrStart : Bool := true
/-- A view's default write policy, stop bit (10_state.md R40). -/
def defaultWrStop : Bool := false
/-- A view's default read policy, start bit (10_state.md R40). -/
def defaultRdStart : Bool := true
/-- A view's default read policy, stop bit (10_state.md R40). -/
def defaultRdStop : Bool := true

/-- OPEN parameter `VID` (00_scope.md R9); no rule reads it. -/
opaque vid : Nat
/-- OPEN parameter `PID` (00_scope.md R9); no rule reads it. -/
opaque pid : Nat
/-- OPEN parameter `IFACE_SUBCLASS` (00_scope.md R9); no rule reads it. -/
opaque ifaceSubclass : Nat

/-- FREE VALUE. Which of several waiting requesters is served next is not fixed (10_state.md R47,
93_implementation_defined.md U9): the choice at the n-th grant is this function of n, taken modulo the number of requesters
that can be served (log 4). -/
opaque arbiter : Nat → Nat

/-- FREE VALUE. The bytes `ENV_IDEAL` answers outside the domain 20_memory.md R87 defines it on ("beyond that its answer is
any bytes"; log 13). -/
opaque freeByte : Nat → Byte

/-- What a byte of an `ENV_IDEAL` device reads as that nothing has stored. DESIGN CHOICE: R87 gives no initial contents;
0xFF is what program P1 of 95_test_vectors.md starts with (log 13). -/
def unwrittenByte : Byte := 0xFF#8

end Sys2Proof.Config
end

