-- ==== Sys2Proof/Syntax.lean ====
section
/-! DEFINITION. The instructions: one constructor per row of spec/opcode_table.json (30_encoding.md R125), the control word
of a bridge command (R101), and the assembler's spelling (R123). -/

namespace Sys2Proof

/-- Direction of a control transfer (30_encoding.md R102). -/
inductive Direction where
  /-- `H2D`, host to device, bit 0 -/
  | h2d
  /-- `D2H`, device to host, bit 1 -/
  | d2h
deriving DecidableEq, Repr

/-- The five arguments of one `CTL` transfer (20_memory.md R70, 30_encoding.md R101). -/
structure ControlWord where
  dir : Direction
  code : Code
  value : Half
  index : Half
  dlen : Half
deriving DecidableEq, Repr

/-- The twelve rows of the opcode table. The first five are bridge commands (42_bridge_commands.md), the next four engine
operations (40_engine_ops.md), the last three memory-device operations (41_memory_device_ops.md), whose view operand
selects the MEM port (30_encoding.md R123). Operand order is the source's. -/
inductive Instr where
  | resetRd
  | resetWr
  | getStatus
  | i2cWrite (addr : DevAddr) (start stop : Bool) (len : Half)
  | i2cRead (addr : DevAddr) (start stop : Bool) (len : Half)
  | reset
  | status
  | write (addr : DevAddr) (payload : List Byte) (start stop : Bool)
  | read (addr : DevAddr) (length : Half) (start stop : Bool)
  | mwrite (view : ViewId) (sa : StartAddr) (data : List Byte)
  | mread (view : ViewId) (sa : StartAddr) (length : Half)
  | dump (view : ViewId) (lineCount : Half)
deriving DecidableEq, Repr

/-- The requests of the ENG port (10_state.md R44). -/
def Instr.isEngineRequest : Instr → Bool
  | .reset | .status | .write .. | .read .. => true
  | .resetRd | .resetWr | .getStatus | .i2cWrite .. | .i2cRead .. | .mwrite .. | .mread .. | .dump .. => false

/-- The row's mnemonic, as the table spells it. -/
def Instr.mnemonic : Instr → String
  | .resetRd => "RESET_RD"
  | .resetWr => "RESET_WR"
  | .getStatus => "GET_STATUS"
  | .i2cWrite .. => "I2C_WRITE"
  | .i2cRead .. => "I2C_READ"
  | .reset => "RESET"
  | .status => "STATUS"
  | .write .. => "WRITE"
  | .read .. => "READ"
  | .mwrite .. => "MWRITE"
  | .mread .. => "MREAD"
  | .dump .. => "DUMP"

/-- A byte sequence in square brackets, decimal numbers (30_encoding.md R123). -/
def bytesText (bs : List Byte) : String :=
  "[" ++ String.intercalate ", " (bs.map fun b => toString b.toNat) ++ "]"

/-- A bit as an operand. -/
def bitText (b : Bool) : String := if b then "1" else "0"

/-- One operation or bridge command on one line: mnemonic and operands in the source's order (30_encoding.md R123). -/
def Instr.text (i : Instr) : String :=
  let operands : List String :=
    match i with
    | .resetRd | .resetWr | .getStatus | .reset | .status => []
    | .i2cWrite a st sp n | .i2cRead a st sp n => [toString a.toNat, bitText st, bitText sp, toString n.toNat]
    | .write a p st sp => [toString a.toNat, bytesText p, bitText st, bitText sp]
    | .read a n st sp => [toString a.toNat, toString n.toNat, bitText st, bitText sp]
    | .mwrite v sa d => [toString v, toString sa.toNat, bytesText d]
    | .mread v sa n => [toString v, toString sa.toNat, toString n.toNat]
    | .dump v k => [toString v, toString k.toNat]
  if operands.isEmpty then i.mnemonic else i.mnemonic ++ " " ++ String.intercalate ", " operands

end Sys2Proof
end

