-- ==== Sys2Proof/WellFormed.lean ====
section
/-! DEFINITION. Well-formedness of an instruction: what fits the port (30_encoding.md R127). The widths of addresses, bits,
lengths and line counts are in the types of `Instr`; what is left to check is the payload's length. -/

namespace Sys2Proof

/-- `WF` of 30_encoding.md R127 as far as it does not depend on a view: a payload of at most `LEN_MAX` bytes. -/
def Instr.wellFormed : Instr → Bool
  | .write _ payload _ _ => decide (payload.length ≤ Config.lenMax)
  | .mwrite _ _ data => decide (data.length ≤ Config.lenMax)
  | .resetRd | .resetWr | .getStatus | .i2cWrite .. | .i2cRead .. | .reset | .status | .read .. | .mread .. | .dump .. =>
    true

/-- The clause of `WF(MWRITE)` that depends on the view: `V.AW + len(data) <= LEN_MAX` (30_encoding.md R127). -/
def fitsView (aw : AddrWidth) (data : List Byte) : Bool :=
  decide (aw.bytes + data.length ≤ Config.lenMax)

end Sys2Proof
end

