-- ==== Sys2Proof/Decode.lean ====
section
/-! DEFINITION. Formats `CW`, `VF`, `RQ`, `MQ` (30_encoding.md R100 to R117): operand packing, the decoder, total and
rejecting by name, and the encoder. -/

namespace Sys2Proof

/-- A field of a word of `N` bits, its bit 0 at bit `lo` of the word (00_scope.md R10: `v << lo`). -/
def field (N lo : Nat) {n : Nat} (v : BitVec n) : BitVec N := v.setWidth N <<< lo

/-- `pack(addr, start, stop)` (30_encoding.md R106): `(addr << 8) | (stop << 1) | start`, 16 bits. -/
def pack (addr : DevAddr) (start stop : Bool) : Half :=
  field 16 Config.addrShift addr ||| field 16 Config.stopShift (BitVec.ofBool stop)
    ||| field 16 Config.startShift (BitVec.ofBool start)

/-- `unpack(v)` (30_encoding.md R107): `addr = v[14:8]`, `start = v[0]`, `stop = v[1]`, in the operand order of `pack`. -/
def unpack (v : Half) : DevAddr × Bool × Bool :=
  (v.extractLsb' Config.addrShift 7, v.getLsbD Config.startShift, v.getLsbD Config.stopShift)

/-- The zero bits of `VF` are clear (30_encoding.md R104): the field is what `pack` makes of its own parts. -/
def valueFieldOk (v : Half) : Bool :=
  decide (pack (unpack v).1 (unpack v).2.1 (unpack v).2.2 = v)

/-- The `dir` bit (30_encoding.md R102). -/
def Direction.bit : Direction → Bool
  | .h2d => false
  | .d2h => true

/-- The direction a `dir` bit stands for (30_encoding.md R102). -/
def Direction.ofBit : Bool → Direction
  | false => .h2d
  | true => .d2h

/-- Format `CW` (30_encoding.md R101): 57 bits, `dir` on the left. -/
def ControlWord.bits (c : ControlWord) : BitVec 57 :=
  field 57 56 (BitVec.ofBool c.dir.bit) ||| field 57 48 c.code ||| field 57 32 c.value ||| field 57 16 c.index
    ||| field 57 0 c.dlen

/-- The fields of a control word (30_encoding.md R101). -/
def ControlWord.ofBits (w : BitVec 57) : ControlWord :=
  { dir := Direction.ofBit (w.getLsbD 56)
    code := w.extractLsb' 48 8
    value := w.extractLsb' 32 16
    index := w.extractLsb' 16 16
    dlen := w.extractLsb' 0 16 }

/-- The words an instruction is presented or emitted as (30_encoding.md R100, R117). -/
inductive Encoded where
  /-- format `CW`: a control word on the control channel -/
  | cw (w : BitVec 57)
  /-- format `RQ` at the ENG port, and the payload bytes that follow it -/
  | rq (w : BitVec 32) (payload : List Byte)
  /-- format `MQ` at the MEM port of a view, and the data bytes that follow it -/
  | mq (view : ViewId) (w : BitVec 52) (data : List Byte)
deriving DecidableEq, Repr

/-- Why words are no instruction (30_encoding.md R117, R119, R120). -/
inductive DecodeError where
  /-- a control word that matches no row of R110 (R119) -/
  | noSuchCommand
  /-- an `op` of 0x7 to 0xF (R120) -/
  | reservedOp
  /-- an ENG operation at a MEM port or the reverse (R120) -/
  | wrongPort
  /-- a bit that must be zero is set (R120) -/
  | mustBeZero
  /-- the number of bytes that follow is not the one the first word gives (R117) -/
  | lengthMismatch
deriving DecidableEq, Repr

/-- What the decoder answers. -/
inductive Decoded where
  | instr (i : Instr)
  | rejected (why : DecodeError)
deriving DecidableEq, Repr

/-- The bridge command of a control word (30_encoding.md R110). -/
def decodeControl (c : ControlWord) : Decoded :=
  match c.dir with
  | .d2h =>
    if c.code = Config.codeReset ∧ c.value = Config.valueResetRead ∧ c.index = 0#16 ∧ c.dlen = 0#16 then
      .instr .resetRd
    else if c.code = Config.codeReset ∧ c.value = Config.valueResetWrite ∧ c.index = 0#16 ∧ c.dlen = 0#16 then
      .instr .resetWr
    else if c.code = Config.codeGetStatus ∧ c.value = Config.valueGetStatus ∧ c.index = 0#16
        ∧ c.dlen = BitVec.ofNat 16 Config.statusLen then
      .instr .getStatus
    else .rejected .noSuchCommand
  | .h2d =>
    if valueFieldOk c.value ∧ c.dlen = 0#16 then
      if c.code = Config.codeI2cWrite then
        .instr (.i2cWrite (unpack c.value).1 (unpack c.value).2.1 (unpack c.value).2.2 c.index)
      else if c.code = Config.codeI2cRead then
        .instr (.i2cRead (unpack c.value).1 (unpack c.value).2.1 (unpack c.value).2.2 c.index)
      else .rejected .noSuchCommand
    else .rejected .noSuchCommand

/-- Only a word alone, nothing after it (30_encoding.md R117). -/
def wordAlone (rest : List Byte) (i : Instr) : Decoded :=
  if rest = [] then .instr i else .rejected .lengthMismatch

/-- The word is followed by exactly `len` bytes (30_encoding.md R117). -/
def wordAndBytes (len : Half) (rest : List Byte) (i : Instr) : Decoded :=
  if rest.length = len.toNat then .instr i else .rejected .lengthMismatch

/-- Format `RQ` (30_encoding.md R114, R116): the engine operations. -/
def decodeRq (w : BitVec 32) (payload : List Byte) : Decoded :=
  let op := w.extractLsb' 28 4
  let addr := w.extractLsb' 18 7
  let stop := w.getLsbD 17
  let start := w.getLsbD 16
  let len := w.extractLsb' 0 16
  if op = 0x0#4 then
    if w.extractLsb' 0 28 = 0#28 then wordAlone payload .reset else .rejected .mustBeZero
  else if op = 0x1#4 then
    if w.extractLsb' 0 28 = 0#28 then wordAlone payload .status else .rejected .mustBeZero
  else if op = 0x2#4 then
    if w.extractLsb' 25 3 = 0#3 then wordAndBytes len payload (.write addr payload start stop) else .rejected .mustBeZero
  else if op = 0x3#4 then
    if w.extractLsb' 25 3 = 0#3 then wordAlone payload (.read addr len start stop) else .rejected .mustBeZero
  else if op = 0x4#4 ∨ op = 0x5#4 ∨ op = 0x6#4 then .rejected .wrongPort
  else .rejected .reservedOp

/-- Format `MQ` (30_encoding.md R115, R116): the memory-device operations. -/
def decodeMq (view : ViewId) (w : BitVec 52) (data : List Byte) : Decoded :=
  let op := w.extractLsb' 48 4
  let sa := w.extractLsb' 16 32
  let len := w.extractLsb' 0 16
  if op = 0x4#4 then wordAndBytes len data (.mwrite view sa data)
  else if op = 0x5#4 then wordAlone data (.mread view sa len)
  else if op = 0x6#4 then if sa = 0#32 then wordAlone data (.dump view len) else .rejected .mustBeZero
  else if op = 0x0#4 ∨ op = 0x1#4 ∨ op = 0x2#4 ∨ op = 0x3#4 then .rejected .wrongPort
  else .rejected .reservedOp

/-- The decoder: total on any words. -/
def decode : Encoded → Decoded
  | .cw w => decodeControl (ControlWord.ofBits w)
  | .rq w payload => decodeRq w payload
  | .mq view w data => decodeMq view w data

/-- The control word of `RESET_RD` (42_bridge_commands.md R191). -/
def cwResetRd : ControlWord := ⟨.d2h, Config.codeReset, Config.valueResetRead, 0#16, 0#16⟩

/-- The control word of `RESET_WR` (42_bridge_commands.md R192). -/
def cwResetWr : ControlWord := ⟨.d2h, Config.codeReset, Config.valueResetWrite, 0#16, 0#16⟩

/-- The control word of `GET_STATUS` (42_bridge_commands.md R193). -/
def cwGetStatus : ControlWord :=
  ⟨.d2h, Config.codeGetStatus, Config.valueGetStatus, 0#16, BitVec.ofNat 16 Config.statusLen⟩

/-- The control word of `I2C_WRITE` (42_bridge_commands.md R194). -/
def cwI2cWrite (addr : DevAddr) (start stop : Bool) (len : Half) : ControlWord :=
  ⟨.h2d, Config.codeI2cWrite, pack addr start stop, len, 0#16⟩

/-- The control word of `I2C_READ` (42_bridge_commands.md R195). -/
def cwI2cRead (addr : DevAddr) (start stop : Bool) (len : Half) : ControlWord :=
  ⟨.h2d, Config.codeI2cRead, pack addr start stop, len, 0#16⟩

/-- An `RQ` word from its fields (30_encoding.md R114). -/
def rqWord (op : BitVec 4) (addr : DevAddr) (stop start : Bool) (len : Half) : BitVec 32 :=
  field 32 28 op ||| field 32 18 addr ||| field 32 17 (BitVec.ofBool stop) ||| field 32 16 (BitVec.ofBool start)
    ||| field 32 0 len

/-- An `MQ` word from its fields (30_encoding.md R115). -/
def mqWord (op : BitVec 4) (sa : StartAddr) (len : Half) : BitVec 52 :=
  field 52 48 op ||| field 52 16 sa ||| field 52 0 len

/-- The encoder: the words of an instruction (30_encoding.md R110, R114 to R117). -/
def encode : Instr → Encoded
  | .resetRd => .cw cwResetRd.bits
  | .resetWr => .cw cwResetWr.bits
  | .getStatus => .cw cwGetStatus.bits
  | .i2cWrite a st sp n => .cw (cwI2cWrite a st sp n).bits
  | .i2cRead a st sp n => .cw (cwI2cRead a st sp n).bits
  | .reset => .rq (rqWord 0x0#4 0#7 false false 0#16) []
  | .status => .rq (rqWord 0x1#4 0#7 false false 0#16) []
  | .write a p st sp => .rq (rqWord 0x2#4 a sp st (BitVec.ofNat 16 p.length)) p
  | .read a n st sp => .rq (rqWord 0x3#4 a sp st n) []
  | .mwrite v sa d => .mq v (mqWord 0x4#4 sa (BitVec.ofNat 16 d.length)) d
  | .mread v sa n => .mq v (mqWord 0x5#4 sa n) []
  | .dump v k => .mq v (mqWord 0x6#4 0#32 k) []

/-- The words of a table row whose bits are `w`: 32 bits are an `RQ` word, 52 (56 in whole bytes) an `MQ` word at view 0,
57 (64 in whole bytes) a `CW` word; bytes that follow are zeros, as many as the word's length field says; pad bits above
the row must be zero (log 20, DESIGN CHOICE). -/
def tableWords (nbits w : Nat) : Option Encoded :=
  if nbits = 32 then
    if w < 2 ^ 32 then
      let r := BitVec.ofNat 32 w
      some (.rq r (if r.extractLsb' 28 4 = 0x2#4 then List.replicate (r.extractLsb' 0 16).toNat 0#8 else []))
    else none
  else if nbits = 52 ∨ nbits = 56 then
    if w < 2 ^ 52 then
      let r := BitVec.ofNat 52 w
      some (.mq 0 r (if r.extractLsb' 48 4 = 0x4#4 then List.replicate (r.extractLsb' 0 16).toNat 0#8 else []))
    else none
  else if nbits = 57 ∨ nbits = 64 then
    if w < 2 ^ 57 then some (.cw (BitVec.ofNat 57 w)) else none
  else none

/-- The instruction the decoder reads from the bits of a table row. -/
def decodeTableWord (nbits w : Nat) : Option Instr :=
  match tableWords nbits w with
  | none => none
  | some e =>
    match decode e with
    | .instr i => some i
    | .rejected _ => none

end Sys2Proof
end

