-- ==== Sys2Proof/Machine/State.lean ====
section
/-! DEFINITION. The state of the machine (10_state.md): the engine's registers, the views, the ports, the channels, the
environment as plain data, and the machine right after block reset (R50). -/

namespace Sys2Proof.Machine

/-- The ten phases of `SEQ` (10_state.md R22). -/
inductive Phase where
  | unbound | idle | statusCheck | abort | commandDispatch | payloadTransfer | completionWait | resetRd | resetWr | failed
deriving DecidableEq, Repr

/-- `TD.op`: the engine operation in progress (10_state.md R21). -/
inductive EngineOp where
  | reset | status | write | read
deriving DecidableEq, Repr

/-- `TD`, the transaction descriptor latch (10_state.md R21). -/
structure Descriptor where
  op : EngineOp
  addr : DevAddr
  start : Bool
  stop : Bool
  len : Half
deriving DecidableEq, Repr

/-- Three bytes, byte 0 the first received: the status word `SW` and the completion word `CP` (30_encoding.md R111, R112,
20_memory.md R67). -/
structure ThreeBytes where
  b0 : Byte
  b1 : Byte
  b2 : Byte
deriving DecidableEq, Repr

/-- The result codes (60_exceptions.md R200). -/
inductive ResultCode where
  | ok | deviceNotFound | configurationMissing | endpointMissing | busBusy | rangeExceeded | transportIo | timeout
deriving DecidableEq, Repr

/-- `EP`, the endpoint set; a handle is resolved or null (10_state.md R30). -/
structure EndpointSet where
  interruptIn : Option Handle
  bulkIn : Option Handle
  bulkOut : Option Handle
deriving DecidableEq, Repr

/-- `V.ENG`: a view's reference to an engine; there is one (10_state.md R40, 00_scope.md R9 `N_ENGINES`). -/
inductive EngineRef where
  | theEngine
deriving DecidableEq, Repr

/-- A memory-device view: its configuration registers (10_state.md R40), `V.LINE` (R42) and the line count of the DUMP in
progress, if one is (41_memory_device_ops.md R177). -/
structure View where
  id : ViewId
  eng : EngineRef
  devAddr : DevAddr
  aw : AddrWidth
  wrStart : Bool
  wrStop : Bool
  rdStart : Bool
  rdStop : Bool
  line : Nat
  dump : Option Half
deriving DecidableEq, Repr

/-- A view that holds the engine (10_state.md R47): which view, the engine requests its composite has still to issue
(41_memory_device_ops.md R173, R174) and, where the composite reads a DUMP element, the element's address (R177). -/
structure Hold where
  view : ViewId
  todo : List Instr
  element : Option StartAddr
deriving DecidableEq, Repr

/-- What a requester presents: the words of a request at a port, or the demand for the next element of a view's DUMP
(10_state.md R44, R45, 41_memory_device_ops.md R178). -/
inductive Presented where
  | request (e : Encoded)
  | next (view : ViewId)
deriving DecidableEq, Repr

/-- The value of a response (10_state.md R48): none, one bit (STATUS), the read bytes (READ, MREAD), or a DUMP element. -/
inductive Value where
  | none
  | bit (b : Bool)
  | bytes (bs : List Byte)
  | element (addr : StartAddr) (bs : List Byte)
deriving DecidableEq, Repr

/-- A response: the result code and, when it is `OK`, the value (10_state.md R48, 30_encoding.md R118). -/
structure Response where
  code : ResultCode
  value : Value
deriving DecidableEq, Repr

/-- Where a response is delivered: at the ENG port to the host, at the ENG port to the view whose engine request it was, or
at a view's MEM port (10_state.md R44, R45, R48). -/
inductive Port where
  | eng
  | engToView (view : ViewId)
  | mem (view : ViewId)
deriving DecidableEq, Repr

/-- One response delivered at one port. -/
structure Delivery where
  port : Port
  response : Response
deriving DecidableEq, Repr

/-- A transfer on one of the four channels (20_memory.md R70 to R73), with the endpoint handle it is made on. -/
inductive Transfer where
  /-- `CTL`, on the control channel, which has no handle -/
  | ctl (c : ControlWord)
  /-- `BOUT`, on `EP.bulk_out` -/
  | bout (ep : Option Handle) (payload : List Byte)
  /-- `BIN`, on `EP.bulk_in` -/
  | bin (ep : Option Handle) (n : Nat)
  /-- `INT`, on `EP.interrupt_in` -/
  | int (ep : Option Handle) (n : Nat)
deriving DecidableEq, Repr

/-- What the environment makes of a transfer (20_memory.md R74): it succeeds with bytes, it fails, or it never returns. -/
inductive Reply where
  | ok (bytes : List Byte)
  | fail
  | never
deriving DecidableEq, Repr

/-- Memory of an `ENV_IDEAL` device (20_memory.md R87): (address, byte) pairs with addresses strictly rising and no entry
equal to what an unlisted address reads as. -/
abbrev Memory := List Host.Cell

/-- One I2C device of `ENV_IDEAL`: `w_a`, `mem_a`, `ptr_a` (20_memory.md R87). -/
structure Device where
  addr : DevAddr
  width : AddrWidth
  mem : Memory
  ptr : Nat
deriving DecidableEq, Repr

/-- The transaction in the adapter's one pending-transaction slot (60_exceptions.md R222). -/
structure SlotEntry where
  isRead : Bool
  addr : DevAddr
  stop : Bool
  len : Half
deriving DecidableEq, Repr

/-- `ENV_IDEAL` (20_memory.md R87): its devices, the flag `open`, the pending transaction, and the count of free bytes it
has given out (the model's own, log 13). -/
structure IdealAdapter where
  devices : List Device
  busOpen : Bool
  slot : Option SlotEntry
  free : Nat
deriving DecidableEq, Repr

/-- The environment as plain data (20_memory.md R84; log 2): any oracle, as the list of replies it makes to the transfers
to come (an empty list has not answered), or `ENV_IDEAL`. -/
inductive Env where
  | oracle (replies : List Reply)
  | ideal (adapter : IdealAdapter)
deriving DecidableEq, Repr

/-- Why the machine stops with a fault. -/
inductive Fault where
  /-- Raised by `step` in a state that is in no row of 40_engine_ops.md R140 (a phase whose `TD.op` no row gives it). No
  run from reset reaches one (log 17). Safe. -/
  | noTransition (phase : Phase)
deriving DecidableEq, Repr

/-- Why something has no meaning here. -/
inductive Refusal where
  /-- Raised by an arm of `exec` whose instruction has no meaning yet. Safe. -/
  | notModelled (mnemonic : String)
  /-- Raised by `step` when the words a requester presents are no request (30_encoding.md R120). Safe. -/
  | notARequest (why : DecodeError)
  /-- Raised by WRITE and MWRITE when the request is not well-formed (30_encoding.md R127). Safe. -/
  | illFormed
  /-- Raised by MWRITE, MREAD, DUMP when the view does not exist, so that there is no such MEM port (10_state.md R45), and
  by `State.destroyView`. Safe. -/
  | noSuchView (view : ViewId)
  /-- Raised by a bridge command outside the phase, or with other arguments than those, in which the engine issues it
  (42_bridge_commands.md R190: never so issued). Safe. -/
  | commandNotDue
  /-- Raised by `State.createView` on an address above 127 or a width outside 1 to 4 (10_state.md R40). Safe. -/
  | notAView
  /-- Raised by `State.createView` when a view of that name exists (log 10). Safe. -/
  | viewExists (view : ViewId)
  /-- Raised by `State.createView` when no engine is constructed (70_reset_and_hazards.md R246). Safe. -/
  | noEngine
  /-- Raised by `State.destroyView` while the engine runs an operation of that view (10_state.md R41). Safe. -/
  | viewBusy (view : ViewId)
deriving DecidableEq, Repr

/-- The machine (10_state.md; INVENTORY.md lists every field with its rule). -/
structure State where
  /-- `SEQ` (R22) -/
  seq : Phase
  /-- `TD` (R21) -/
  td : Descriptor
  /-- `PBUF` (R23) -/
  pbuf : List Byte
  /-- `RBUF` (R24) -/
  rbuf : List Byte
  /-- `STS` (R25), whose `STS[0][0]` is `BUSY` (R26) -/
  sts : ThreeBytes
  /-- `CMP` (R27) -/
  cmp : ThreeBytes
  /-- `ERR` (R28) -/
  err : ResultCode
  /-- `FAILED` (R29) -/
  failed : Bool
  /-- `EP` (R30) -/
  ep : EndpointSet
  /-- `BOUND` (R30) -/
  bound : Bool
  /-- the views that exist (R40, R41) -/
  views : List View
  /-- the view that holds the engine (R47) -/
  hold : Option Hold
  /-- what each requester waits to present, in its own order (R47) -/
  requesters : List (List Presented)
  /-- the responses delivered, oldest first (R48) -/
  responses : List Delivery
  /-- the transfer issued and not returned (20_memory.md R79) -/
  outstanding : Option Transfer
  /-- the transfers that returned, with their outcomes, in issue order (00_scope.md R14) -/
  wire : List (Transfer × Reply)
  /-- `XFER_TIMEOUT` (00_scope.md R9) -/
  timeout : Option Nat
  /-- the environment (20_memory.md R84) -/
  env : Env
  /-- the model's own: how many grants the free choice of R47 has made (log 4) -/
  grants : Nat
deriving DecidableEq, Repr

/-- Three zero bytes. -/
def ThreeBytes.zero : ThreeBytes := ⟨0#8, 0#8, 0#8⟩

/-- The machine right after block reset, a successful construction (10_state.md R50, 70_reset_and_hazards.md R243): `SEQ`,
`BOUND`, `ERR`, `FAILED` as the table says, no view, no transfer. The transient registers, which the spec gives no value,
hold zeros (log 5); the handles are 1, 2, 3 (log 6). -/
def State.reset : State where
  seq := .idle
  td := ⟨.reset, 0#7, false, false, 0#16⟩
  pbuf := []
  rbuf := []
  sts := .zero
  cmp := .zero
  err := .ok
  failed := false
  ep := ⟨some 1, some 2, some 3⟩
  bound := true
  views := []
  hold := none
  requesters := []
  responses := []
  outstanding := none
  wire := []
  timeout := none
  env := .oracle []
  grants := 0

end Sys2Proof.Machine
end

