-- ==== Sys2Proof/Machine/Operands.lean ====
section
/-! DEFINITION. Operand computations of the memory-device operations (41_memory_device_ops.md R171, R172), the byte order
of received words, and the numbers of the result codes. -/

namespace Sys2Proof.Machine

/-- `BE_w(a)` (41_memory_device_ops.md R172): byte `i` is `(a div 256^(w-1-i)) mod 256`. -/
def bigEndian : Nat → Nat → List Byte
  | 0, _ => []
  | w + 1, a => BitVec.ofNat 8 (a / 256 ^ w) :: bigEndian w a

/-- The number whose `BE_w` a byte sequence is (20_memory.md R87). -/
def numberOf (bs : List Byte) : Nat :=
  bs.foldl (fun acc b => acc * 256 + b.toNat) 0

/-- The size of a view's byte space, `256^AW` (20_memory.md R62). -/
def spaceSize (aw : AddrWidth) : Nat := 256 ^ aw.bytes

/-- `RangeOK(V, sa, n)` (41_memory_device_ops.md R171), over the unbounded naturals. -/
def rangeOk (aw : AddrWidth) (sa : StartAddr) (n : Nat) : Bool :=
  decide (sa.toNat + n ≤ spaceSize aw) && decide (sa.toNat < spaceSize aw)

/-- The first three bytes received, byte 0 first (20_memory.md R67). Applied to exactly three bytes (R74). -/
def threeBytes (bs : List Byte) : ThreeBytes :=
  ⟨bs.getD 0 0#8, bs.getD 1 0#8, bs.getD 2 0#8⟩

/-- The number of a result code, 4 bits (60_exceptions.md R200). -/
def resultNumber : ResultCode → BitVec 4
  | .ok => 0#4
  | .deviceNotFound => 1#4
  | .configurationMissing => 2#4
  | .endpointMissing => 3#4
  | .busBusy => 4#4
  | .rangeExceeded => 5#4
  | .transportIo => 6#4
  | .timeout => 7#4

/-- A transfer as the wire traces of the spec write it, a handle left out (30_encoding.md R123). -/
def transferText : Transfer → String
  | .ctl c =>
    match decodeControl c with
    | .instr i => i.text
    | .rejected _ => "CTL"
  | .bout _ p => "BOUT " ++ bytesText p
  | .bin _ n => "BIN " ++ toString n
  | .int _ n => "INT " ++ toString n

end Sys2Proof.Machine
end

