-- ==== Sys2Proof/Machine/Environment.lean ====
section
/-! DEFINITION. The environment (20_memory.md R84 to R88): the replies of an oracle, and `ENV_IDEAL` with its device
memory. Nothing here is the block's; the block meets it only through `Env.answer`. -/

namespace Sys2Proof.Machine

/-- The byte at an address: its entry, or what an unlisted address reads as. -/
def Memory.read : Memory → Nat → Byte
  | [], _ => Config.unwrittenByte
  | c :: m, a => if c.1 = a then c.2 else Memory.read m a

/-- Store a byte, keeping the canonical form: storing what an unlisted address reads as leaves no entry. -/
def Memory.write : Memory → Nat → Byte → Memory
  | [], a, b => if b = Config.unwrittenByte then [] else [(a, b)]
  | c :: m, a, b =>
    if a < c.1 then if b = Config.unwrittenByte then c :: m else (a, b) :: c :: m
    else if a = c.1 then if b = Config.unwrittenByte then m else (a, b) :: m
    else c :: Memory.write m a b

/-- The canonical form: addresses strictly rising, no entry equal to what an unlisted address reads as. -/
def Memory.wf : Memory → Bool
  | [] => true
  | c :: m => decide (c.2 ≠ Config.unwrittenByte) && m.all (fun d => decide (c.1 < d.1)) && Memory.wf m

/-- Store a run of bytes at consecutive addresses below `limit`; a byte at or above it is not stored (log 13). -/
def Memory.writeRun (limit : Nat) : Memory → Nat → List Byte → Memory
  | m, _, [] => m
  | m, a, b :: bs => Memory.writeRun limit (if a < limit then Memory.write m a b else m) (a + 1) bs

/-- Read `n` bytes from consecutive addresses; at or above `limit` the answer is a free byte (20_memory.md R87), the k-th
one given out being `Config.freeByte k`. -/
def Memory.readRun (m : Memory) (limit : Nat) : Nat → Nat → Nat → List Byte
  | _, _, 0 => []
  | a, k, n + 1 =>
    (if a < limit then Memory.read m a else Config.freeByte k) :: Memory.readRun m limit (a + 1) (k + 1) n

/-- The device at an I2C address, if there is one. -/
def findDevice (ds : List Device) (a : DevAddr) : Option Device := ds.find? (fun d => d.addr = a)

/-- Replace the device at the I2C address of `d`. -/
def putDevice (ds : List Device) (d : Device) : List Device := ds.map fun e => if e.addr = d.addr then d else e

/-- A payload of at least `w` bytes sets the pointer from its first `w` and stores the rest there, one address on for each
byte (20_memory.md R87). A shorter payload does nothing. -/
def Device.store (d : Device) (p : List Byte) : Device :=
  if d.width.bytes ≤ p.length then
    let a := numberOf (p.take d.width.bytes)
    let rest := p.drop d.width.bytes
    { d with mem := Memory.writeRun (spaceSize d.width) d.mem a rest, ptr := a + rest.length }
  else d

/-- `ENV_IDEAL` after a bulk-out (20_memory.md R87). Without a dispatched write, or with no device at its address, nothing
is stored (log 13). -/
def IdealAdapter.bulkOut (a : IdealAdapter) (p : List Byte) : IdealAdapter :=
  match a.slot with
  | some e =>
    if e.isRead then a
    else
      match findDevice a.devices e.addr with
      | some d => { a with devices := putDevice a.devices (d.store p) }
      | none => a
  | none => a

/-- `n` free bytes, for an answer R87 does not define. -/
def IdealAdapter.freeBytes (a : IdealAdapter) (n : Nat) : List Byte × IdealAdapter :=
  ((List.range n).map fun i => Config.freeByte (a.free + i), { a with free := a.free + n })

/-- `ENV_IDEAL`'s answer to a bulk-in of `n` bytes (20_memory.md R87). Without a dispatched read, or with no device at its
address, the answer is `n` free bytes (log 13). -/
def IdealAdapter.bulkIn (a : IdealAdapter) (n : Nat) : List Byte × IdealAdapter :=
  match a.slot with
  | some e =>
    if e.isRead then
      match findDevice a.devices e.addr with
      | some d =>
        (Memory.readRun d.mem (spaceSize d.width) d.ptr a.free n,
          { a with devices := putDevice a.devices { d with ptr := d.ptr + n }, free := a.free + n })
      | none => a.freeBytes n
    else a.freeBytes n
  | none => a.freeBytes n

/-- `ENV_IDEAL`'s answer to a control transfer (20_memory.md R87): the reset commands close the bus and clear the slot, Get
status reads three zero bytes, a transaction command fills the slot. A control word that is no bridge command is a defect
of the block (30_encoding.md R119) and gets no answer. -/
def IdealAdapter.control (a : IdealAdapter) (c : ControlWord) : Option (Reply × IdealAdapter) :=
  match decodeControl c with
  | .instr .resetRd => some (.ok [], { a with busOpen := false, slot := none })
  | .instr .resetWr => some (.ok [], { a with busOpen := false, slot := none })
  | .instr .getStatus => some (.ok [0#8, 0#8, 0#8], a)
  | .instr (.i2cWrite addr _ stop len) => some (.ok [], { a with slot := some ⟨false, addr, stop, len⟩ })
  | .instr (.i2cRead addr _ stop len) => some (.ok [], { a with slot := some ⟨true, addr, stop, len⟩ })
  | _ => none

/-- `ENV_IDEAL`'s answer to an interrupt-in read: three zero bytes at once; the transaction in the slot ends, and the bus is
left open exactly when its stop bit is 0 (20_memory.md R87). -/
def IdealAdapter.completion (a : IdealAdapter) : Reply × IdealAdapter :=
  (.ok [0#8, 0#8, 0#8],
    match a.slot with
    | some e => { a with busOpen := !e.stop, slot := none }
    | none => a)

/-- `ENV_IDEAL`'s answer to a transfer (20_memory.md R87): it always returns and never fails. -/
def IdealAdapter.answer (a : IdealAdapter) : Transfer → Option (Reply × IdealAdapter)
  | .ctl c => a.control c
  | .bout _ p => some (.ok [], a.bulkOut p)
  | .bin _ n => some (.ok (a.bulkIn n).1, (a.bulkIn n).2)
  | .int _ _ => some a.completion

/-- What the environment answers to a transfer, and the environment after it; `none` while it has not answered
(20_memory.md R84). -/
def Env.answer (e : Env) (t : Transfer) : Option (Reply × Env) :=
  match e with
  | .oracle [] => none
  | .oracle (r :: rs) => some (r, .oracle rs)
  | .ideal a => (a.answer t).map fun x => (x.1, .ideal x.2)

/-- The device memories of the environment keep the canonical form. -/
def Env.wf : Env → Bool
  | .oracle _ => true
  | .ideal a => a.devices.all fun d => Memory.wf d.mem

/-- One byte of the device at an I2C address of `ENV_IDEAL`, if there is such a device. -/
def Env.readByte (e : Env) (dev : DevAddr) (a : Nat) : Option Byte :=
  match e with
  | .oracle _ => none
  | .ideal x => (findDevice x.devices dev).map fun d => Memory.read d.mem a

end Sys2Proof.Machine
end

