-- ==== Sys2Proof/Machine/Flags.lean ====
section
/-! DEFINITION. The block's one flag, `BUSY`, and the status interpreter (10_state.md R26, 40_engine_ops.md R146). There is
no other flag or condition code (R26). -/

namespace Sys2Proof.Machine

/-- The busy/error flag of a status word: byte 0, bit 0 (10_state.md R25, 30_encoding.md R111). -/
def busyFlag (s : ThreeBytes) : Bool := s.b0.getLsbD 0

/-- `interpret(s)` (40_engine_ops.md R146): false exactly when the busy flag is set. -/
def interpret (s : ThreeBytes) : Bool := !busyFlag s

/-- `BUSY` is `STS[0][0]` (10_state.md R26). -/
def State.busy (s : State) : Bool := busyFlag s.sts

end Sys2Proof.Machine
end

