-- ==== Sys2Proof/Machine/Ops.lean ====
section
/-! DEFINITION. The shared operations: when a request is accepted, issuing a transfer and taking its outcome, and the end of
an operation, by return or by raising an error kind (40_engine_ops.md R140, 60_exceptions.md R208 to R211). -/

namespace Sys2Proof.Machine

/-! Views -/

/-- The view of a name, if it exists. -/
def State.findView (s : State) (v : ViewId) : Option View := s.views.find? fun V => V.id = v

/-- Change the view of a name. -/
def State.updateView (s : State) (v : ViewId) (f : View → View) : State :=
  { s with views := s.views.map fun V => if V.id = v then f V else V }

/-! Named updates -/

/-- `SEQ <- p` (00_scope.md R11). -/
def State.goto (s : State) (p : Phase) : State := { s with seq := p }

/-- Deliver one response at a port (10_state.md R48). -/
def State.deliver (s : State) (p : Port) (r : Response) : State := { s with responses := s.responses ++ [⟨p, r⟩] }

/-- Issue a transfer; a transfer already issued is not issued again (40_engine_ops.md R140). -/
def State.issue (s : State) (t : Transfer) : State := { s with outstanding := some t }

/-- The transfer has returned: it joins the wire trace with its outcome (20_memory.md R77). -/
def State.returned (s : State) (t : Transfer) (r : Reply) (e : Env) : State :=
  { s with outstanding := none, wire := s.wire ++ [(t, r)], env := e }

/-! When a request is accepted -/

/-- The engine can start an operation: `BOUND = 1`, `FAILED = 0`, `SEQ = IDLE` (10_state.md R47). -/
def State.ready (s : State) : Bool := s.bound && !s.failed && decide (s.seq = .idle)

/-- A request at a port is accepted: the engine is ready and no view holds it (10_state.md R47). -/
def State.accepting (s : State) : Bool := s.ready && s.hold.isNone

/-! The end of an operation -/

/-- A DUMP of this view is over: it produces no further element (41_memory_device_ops.md R177). -/
def View.endDump (V : View) : View := { V with dump := none }

/-- One more element of this view's DUMP has been delivered; after the last one the DUMP is over (R177). -/
def View.nextLine (V : View) : View :=
  let V := { V with line := V.line + 1 }
  match V.dump with
  | some k => if V.line < k.toNat then V else V.endDump
  | none => V

/-- The composite of the view that holds the engine ends with `OK`: its value is that of its last engine operation, or the
DUMP element made of it (41_memory_device_ops.md R173, R174, R177). The view stops holding the engine (10_state.md R47). -/
def State.compositeDone (s : State) (h : Hold) (v : Value) : State :=
  let s := { s with hold := none }
  match h.element with
  | none => s.deliver (.mem h.view) ⟨.ok, v⟩
  | some a =>
    (s.updateView h.view View.nextLine).deliver (.mem h.view)
      ⟨.ok, match v with
        | .bytes bs => .element a bs
        | _ => v⟩

/-- The composite of the view that holds the engine ends at once with the code of its sub-operation, with no value
(41_memory_device_ops.md R176); a DUMP ends with its element (R177). -/
def State.compositeFailed (s : State) (h : Hold) (c : ResultCode) : State :=
  let s := { s with hold := none }
  match h.element with
  | none => s.deliver (.mem h.view) ⟨c, .none⟩
  | some _ => (s.updateView h.view View.endDump).deliver (.mem h.view) ⟨c, .none⟩

/-- The view that holds the engine receives the response of its engine request (41_memory_device_ops.md R176): an error ends
the composite, `OK` ends it when nothing is left to issue. -/
def State.viewReceives (s : State) (h : Hold) (r : Response) : State :=
  if r.code = .ok then if h.todo = [] then s.compositeDone h r.value else s
  else s.compositeFailed h r.code

/-- An engine operation ends: `SEQ` goes to `p`, `ERR` takes the code, and the response is delivered, to the view that holds
the engine or to the host (10_state.md R28, R48). -/
def State.endEngine (s : State) (p : Phase) (r : Response) : State :=
  let s := { s with seq := p, err := r.code }
  match s.hold with
  | none => s.deliver .eng r
  | some h => (s.deliver (.engToView h.view) r).viewReceives h r

/-- `return v` (00_scope.md R11): the engine operation ends with `OK`. -/
def State.returnOk (s : State) (v : Value) : State := s.endEngine .idle ⟨.ok, v⟩

/-- `raise` (00_scope.md R11): the engine operation ends with an error kind. `TRANSPORT_IO`, and `TIMEOUT` like it, take
`SEQ` to `FAILED` and set the sticky flag (60_exceptions.md R207, R211); any other kind leaves the engine usable (R209). No
value is delivered. -/
def State.raise (s : State) (c : ResultCode) : State :=
  match c with
  | .transportIo | .timeout => { s with failed := true }.endEngine .failed ⟨c, .none⟩
  | _ => s.endEngine .idle ⟨c, .none⟩

/-- `raise RANGE_EXCEEDED` at a view's MEM port (60_exceptions.md R210): `ERR` takes the code, the response is delivered,
nothing else changes. -/
def State.raiseRange (s : State) (v : ViewId) : State :=
  { s with err := .rangeExceeded }.deliver (.mem v) ⟨.rangeExceeded, .none⟩

/-! Transfers -/

/-- The count of bytes a transfer asks for, where it asks for one: `dlen` of a `D2H` control transfer, `n` of a bulk-in or
an interrupt-in read (20_memory.md R70, R72, R73). -/
def Transfer.asked : Transfer → Option Nat
  | .ctl c =>
    match c.dir with
    | .d2h => some c.dlen.toNat
    | .h2d => none
  | .bout _ _ => none
  | .bin _ n => some n
  | .int _ n => some n

/-- A return the transport layer calls a success counts as one when its byte count is the one asked for
(20_memory.md R74). -/
def Transfer.countOk (t : Transfer) (bytes : List Byte) : Bool :=
  match t.asked with
  | some n => decide (bytes.length = n)
  | none => true

/-- Perform the transfer of a phase (20_memory.md R74, 40_engine_ops.md R140). It is issued; while it has not returned the
block waits in the phase. A success with the right byte count goes on with `onOk`; a failure, or a success with another
count, raises `TRANSPORT_IO`. A transfer that never returns waits for ever (70_reset_and_hazards.md R255), unless
`XFER_TIMEOUT` bounds the wait: then it raises `TIMEOUT` (60_exceptions.md R207; log 3).
DESIGN CHOICE (log 29): a success with another count is treated as `fail` (R74, R145), but the wire trace records what the
transport layer reported, `ok` and its bytes.
DESIGN CHOICE (log 30): a transfer that waits takes no reply from the environment, so a `never` stays the next reply. -/
def State.perform (s : State) (t : Transfer) (onOk : State → List Byte → State) : State :=
  match s.env.answer t with
  | none => s.issue t
  | some (.ok bytes, e) =>
    if t.countOk bytes then onOk (s.returned t (.ok bytes) e) bytes
    else (s.returned t (.ok bytes) e).raise .transportIo
  | some (.fail, e) => (s.returned t .fail e).raise .transportIo
  | some (.never, e) =>
    match s.timeout with
    | none => s.issue t
    | some _ => (s.returned t .never e).raise .timeout

/-! Acceptance of an engine request -/

/-- An engine request is accepted (40_engine_ops.md R141): the descriptor (and, for WRITE, the payload buffer) is latched and
`SEQ` goes to the operation's first phase. At the host's ENG port that needs the engine ready and no view holding it; while
a view holds it, only that view's own next request is accepted (10_state.md R47). A request that is not accepted waits and
changes nothing. `ERR` is not changed by acceptance. -/
def State.acceptEngine (s : State) (i : Instr) (td : Descriptor) (pbuf : List Byte) (first : Phase) : State :=
  if s.ready then
    match s.hold with
    | none => { s with td := td, pbuf := pbuf, seq := first }
    | some h =>
      match h.todo with
      | j :: rest =>
        if j = i then { s with td := td, pbuf := pbuf, seq := first, hold := some { h with todo := rest } } else s
      | [] => s
  else s

end Sys2Proof.Machine
end

