-- ==== Sys2Proof/Machine/BridgeCommands.lean ====
section
/-! DEFINITION. The five bridge commands (42_bridge_commands.md): each issues its control transfer in its phase and does
what 40_engine_ops.md R140 says when the transfer returns. -/

namespace Sys2Proof.Machine

/-- `RESET_RD` (42_bridge_commands.md R191): the first command of a RESET; on `ok` the engine goes on to `RESET_WR`. -/
def execResetRd (s : State) : Host.Outcome State Fault Refusal :=
  if s.seq = .resetRd then .next (s.perform (.ctl cwResetRd) fun s _ => s.goto .resetWr)
  else .refused .commandNotDue

/-- `RESET_WR` (42_bridge_commands.md R192): the second command of a RESET; on `ok` the RESET ends, with no value. -/
def execResetWr (s : State) : Host.Outcome State Fault Refusal :=
  if s.seq = .resetWr then .next (s.perform (.ctl cwResetWr) fun s _ => s.returnOk .none)
  else .refused .commandNotDue

/-- The answer of `GET_STATUS` is latched in `STS` and interpreted (40_engine_ops.md R140, R144, R145, R147): STATUS ends
with the bit; WRITE and READ go on to the command, or to `ABORT` when the busy flag is set. -/
def State.statusAnswered (s : State) (bytes : List Byte) : State :=
  let s := { s with sts := threeBytes bytes }
  match s.td.op with
  | .status => s.returnOk (.bit (interpret s.sts))
  | .write | .read => s.goto (if interpret s.sts then .commandDispatch else .abort)
  | .reset => s

/-- `GET_STATUS` (42_bridge_commands.md R193): three bytes are asked for, latched and interpreted. -/
def execGetStatus (s : State) : Host.Outcome State Fault Refusal :=
  if s.seq = .statusCheck ∧ s.td.op ≠ .reset then .next (s.perform (.ctl cwGetStatus) State.statusAnswered)
  else .refused .commandNotDue

/-- `I2C_WRITE` (42_bridge_commands.md R194): issued with the latched operands of a WRITE; on `ok` the payload follows. -/
def execI2cWrite (addr : DevAddr) (start stop : Bool) (len : Half) (s : State) : Host.Outcome State Fault Refusal :=
  if s.seq = .commandDispatch ∧ s.td = ⟨.write, addr, start, stop, len⟩ then
    .next (s.perform (.ctl (cwI2cWrite addr start stop len)) fun s _ => s.goto .payloadTransfer)
  else .refused .commandNotDue

/-- `I2C_READ` (42_bridge_commands.md R195): issued with the latched operands of a READ; on `ok` the data follows. -/
def execI2cRead (addr : DevAddr) (start stop : Bool) (len : Half) (s : State) : Host.Outcome State Fault Refusal :=
  if s.seq = .commandDispatch ∧ s.td = ⟨.read, addr, start, stop, len⟩ then
    .next (s.perform (.ctl (cwI2cRead addr start stop len)) fun s _ => s.goto .payloadTransfer)
  else .refused .commandNotDue

/-- The command the phase issues, with the latched operands (40_engine_ops.md R140, 10_state.md R46); none in a phase that
issues no control transfer, or whose `TD.op` no row of R140 gives it. -/
def State.bridgeCommand (s : State) : Option Instr :=
  match s.seq, s.td.op with
  | .resetRd, .reset => some .resetRd
  | .resetWr, .reset => some .resetWr
  | .statusCheck, .status => some .getStatus
  | .statusCheck, .write => some .getStatus
  | .statusCheck, .read => some .getStatus
  | .commandDispatch, .write => some (.i2cWrite s.td.addr s.td.start s.td.stop s.td.len)
  | .commandDispatch, .read => some (.i2cRead s.td.addr s.td.start s.td.stop s.td.len)
  | _, _ => none

end Sys2Proof.Machine
end

