-- ==== Sys2Proof/Machine/Construction.lean ====
section
/-! DEFINITION. Block reset, which is construction (70_reset_and_hazards.md R240 to R244), and the creation and destruction
of views (10_state.md R40, R41). The outside world applies these between steps. -/

namespace Sys2Proof.Machine

/-- The outcome of discovery (70_reset_and_hazards.md R241). -/
inductive Discovery where
  | found (interruptIn bulkIn bulkOut : Handle)
  | noDevice
  | noConfiguration
  | noEndpoint
deriving DecidableEq, Repr

/-- The error code of a discovery that failed (70_reset_and_hazards.md R242). -/
def Discovery.code : Discovery → ResultCode
  | .found .. => .ok
  | .noDevice => .deviceNotFound
  | .noConfiguration => .configurationMissing
  | .noEndpoint => .endpointMissing

/-- Construction (70_reset_and_hazards.md R243): `EP`, `BOUND`, `SEQ`, `ERR`, `FAILED` as the rule says, no view exists, no
transfer is issued (R244). What waits at the ports, the environment and `XFER_TIMEOUT` are not the engine's and stay
(10_state.md R51; log 14). The transient registers hold zeros, a failed construction leaves null handles (log 5, log 6).
DESIGN CHOICE (log 30): block reset is the one way out of a transfer that never returns (40_engine_ops.md R156,
70_reset_and_hazards.md R255), and what the environment answers after it is open (20_memory.md R84, 10_state.md R51); the list of
replies stays as it is, so a `never` that was not taken, or an empty list, meets the first transfer of the new engine too. -/
def State.construct (s : State) (d : Discovery) : State :=
  { State.reset with
    seq := match d with
      | .found .. => .idle
      | _ => .unbound
    ep := match d with
      | .found i bi bo => ⟨some i, some bi, some bo⟩
      | _ => ⟨none, none, none⟩
    bound := match d with
      | .found .. => true
      | _ => false
    err := d.code
    requesters := s.requesters
    timeout := s.timeout
    env := s.env
    grants := s.grants }

/-- A view's policies: (start, stop) of its writes and of its reads (10_state.md R40). -/
structure Policies where
  wrStart : Bool
  wrStop : Bool
  rdStart : Bool
  rdStop : Bool
deriving DecidableEq, Repr

/-- The default policies (10_state.md R40). -/
def Policies.default : Policies :=
  ⟨Config.defaultWrStart, Config.defaultWrStop, Config.defaultRdStart, Config.defaultRdStop⟩

/-- A new view (10_state.md R40). -/
def View.create (id : ViewId) (devAddr : DevAddr) (aw : AddrWidth) (p : Policies) : View :=
  ⟨id, .theEngine, devAddr, aw, p.wrStart, p.wrStop, p.rdStart, p.rdStop, 0, none⟩

/-- The directive `VIEW` (30_encoding.md R123): a view is created; no transfer is issued and no register of the engine
changes (10_state.md R41). An address above 127 or a width outside 1 to 4 is refused (R40). -/
def State.createView (s : State) (id : ViewId) (devAddr aw : Nat) (p : Policies) : Host.Outcome State Fault Refusal :=
  match AddrWidth.ofNat? aw with
  | none => .refused .notAView
  | some w =>
    if devAddr < 128 then
      if s.bound then
        match s.findView id with
        | some _ => .refused (.viewExists id)
        | none => .next { s with views := s.views ++ [View.create id (BitVec.ofNat 7 devAddr) w p] }
      else .refused .noEngine
    else .refused .notAView

/-- A view is destroyed, at any time the engine is not running an operation of it (10_state.md R41). -/
def State.destroyView (s : State) (id : ViewId) : Host.Outcome State Fault Refusal :=
  match s.findView id with
  | none => .refused (.noSuchView id)
  | some _ =>
    match s.hold with
    | some h => if h.view = id then .refused (.viewBusy id) else .next { s with views := s.views.filter fun V => V.id ≠ id }
    | none => .next { s with views := s.views.filter fun V => V.id ≠ id }

end Sys2Proof.Machine
end

