-- ==== Sys2Proof/Machine/EngineOps.lean ====
section
/-! DEFINITION. The engine operations RESET, STATUS, WRITE, READ as requests (40_engine_ops.md R141 to R152), and the phases
of the sequencer whose transfers are no row of the opcode table (R140): the bulk transfers, the completion wait, the
abort. -/

namespace Sys2Proof.Machine

/-- `RESET` (40_engine_ops.md R142): no status check; `TD.op` is latched, `TD.len` is 0 (10_state.md R21), the rest of `TD`
stays (R142: "RESET does not change TD.addr"; log 18). -/
def execReset (s : State) : Host.Outcome State Fault Refusal :=
  .next (s.acceptEngine .reset { s.td with op := .reset, len := 0#16 } s.pbuf .resetRd)

/-- `STATUS` (40_engine_ops.md R144). -/
def execStatus (s : State) : Host.Outcome State Fault Refusal :=
  .next (s.acceptEngine .status { s.td with op := .status, len := 0#16 } s.pbuf .statusCheck)

/-- `WRITE addr, payload, start, stop` (40_engine_ops.md R148): the operands and the whole payload are latched, `TD.len` is
`len(payload)` (R141). -/
def execWrite (addr : DevAddr) (payload : List Byte) (start stop : Bool) (s : State) :
    Host.Outcome State Fault Refusal :=
  if (Instr.write addr payload start stop).wellFormed then
    .next (s.acceptEngine (.write addr payload start stop)
      ⟨.write, addr, start, stop, BitVec.ofNat 16 payload.length⟩ payload .statusCheck)
  else .refused .illFormed

/-- `READ addr, length, start, stop` (40_engine_ops.md R150): the operands are latched (R141). -/
def execRead (addr : DevAddr) (length : Half) (start stop : Bool) (s : State) : Host.Outcome State Fault Refusal :=
  .next (s.acceptEngine (.read addr length start stop) ⟨.read, addr, start, stop, length⟩ s.pbuf .statusCheck)

/-- Phase `ABORT` (40_engine_ops.md R153): no transfer; the operation ends with `BUS_BUSY`. -/
def State.abortOperation (s : State) : State := s.raise .busBusy

/-- Phase `PAYLOAD_TRANSFER` (40_engine_ops.md R140): the whole payload goes out, or exactly `TD.len` bytes come in and are
kept in `RBUF` until the completion signal. -/
def State.payloadTransfer (s : State) : State :=
  match s.td.op with
  | .write => s.perform (.bout s.ep.bulkOut s.pbuf) fun s _ => s.goto .completionWait
  | .read =>
    s.perform (.bin s.ep.bulkIn s.td.len.toNat) fun s bytes => { s with rbuf := bytes }.goto .completionWait
  | .reset | .status => s

/-- The value of the operation in progress when it ends with `OK` at the completion signal: the bytes of a READ, nothing for
a WRITE (10_state.md R48). -/
def State.transactionValue (s : State) : Value :=
  match s.td.op with
  | .read => .bytes s.rbuf
  | .reset | .status | .write => .none

/-- Phase `COMPLETION_WAIT` (40_engine_ops.md R149): the blocking 3-byte interrupt-in read; its content goes no further than
`CMP`, its arrival ends the operation. -/
def State.completionWait (s : State) : State :=
  s.perform (.int s.ep.interruptIn Config.completionLen) fun s bytes =>
    { s with cmp := threeBytes bytes }.returnOk s.transactionValue

end Sys2Proof.Machine
end

