-- ==== Sys2Proof/Machine/MemoryDevice.lean ====
section
/-! DEFINITION. The memory-device operations MWRITE, MREAD, DUMP (41_memory_device_ops.md): the range check, and the fixed
plan of engine requests the view issues while it holds the engine (30_encoding.md R124). -/

namespace Sys2Proof.Machine

/-- The one engine request of an MWRITE (41_memory_device_ops.md R173): prefix and data share one payload, with the view's
write policy (R179). -/
def writePlan (V : View) (sa : StartAddr) (data : List Byte) : List Instr :=
  [.write V.devAddr (bigEndian V.aw.bytes sa.toNat ++ data) V.wrStart V.wrStop]

/-- The three engine requests of an MREAD (41_memory_device_ops.md R174): RESET, the address phase with the write policy, the
data phase with the read policy (R179). -/
def readPlan (V : View) (sa : StartAddr) (length : Half) : List Instr :=
  [.reset, .write V.devAddr (bigEndian V.aw.bytes sa.toNat) V.wrStart V.wrStop,
    .read V.devAddr length V.rdStart V.rdStop]

/-- An accepted MWRITE or MREAD: the view takes hold of the engine with a plan when its range check passes; else
`RANGE_EXCEEDED`, and it never held the engine (41_memory_device_ops.md R171, 60_exceptions.md R210). -/
def State.takeEngine (s : State) (V : View) (sa : StartAddr) (n : Nat) (plan : List Instr) : State :=
  if rangeOk V.aw sa n then { s with hold := some ⟨V.id, plan, none⟩ } else s.raiseRange V.id

/-- `MWRITE view, start_address, data` (41_memory_device_ops.md R173), in the order of checks of 60_exceptions.md R213: not
well-formed is refused, not accepted waits, then the range check on the data bytes alone. -/
def execMwrite (view : ViewId) (sa : StartAddr) (data : List Byte) (s : State) : Host.Outcome State Fault Refusal :=
  match s.findView view with
  | none => .refused (.noSuchView view)
  | some V =>
    if fitsView V.aw data then
      .next (if s.accepting then s.takeEngine V sa data.length (writePlan V sa data) else s)
    else .refused .illFormed

/-- `MREAD view, start_address, length` (41_memory_device_ops.md R174). -/
def execMread (view : ViewId) (sa : StartAddr) (length : Half) (s : State) : Host.Outcome State Fault Refusal :=
  match s.findView view with
  | none => .refused (.noSuchView view)
  | some V => .next (if s.accepting then s.takeEngine V sa length.toNat (readPlan V sa length) else s)

/-- A DUMP of `k` lines begins: `V.LINE <- 0` (10_state.md R42); with no line there is no element to come. -/
def View.startDump (k : Half) (V : View) : View :=
  { V with line := 0, dump := if k = 0#16 then none else some k }

/-- `DUMP view, line_count` (41_memory_device_ops.md R177): the sequence starts again from line 0 and issues nothing; each
element waits for the consumer's demand (R178). With `line_count = 0` the operation has run to its end, so `ERR` is `OK`
and no element is delivered (log 11). -/
def execDump (view : ViewId) (lineCount : Half) (s : State) : Host.Outcome State Fault Refusal :=
  match s.findView view with
  | none => .refused (.noSuchView view)
  | some _ =>
    .next (if s.accepting then
      { s.updateView view (View.startDump lineCount) with err := if lineCount = 0#16 then .ok else s.err }
    else s)

/-- The start address of line `n` of a DUMP, `n * 32` (41_memory_device_ops.md R177). -/
def lineAddress (n : Nat) : StartAddr := BitVec.ofNat 32 (n * Config.dumpBlock)

/-- The consumer's demand for the next element of a view's DUMP is served (41_memory_device_ops.md R177, R178): an MREAD of
32 bytes at `line * 32`; its error, the range check's included, ends the DUMP. -/
def State.demandElement (s : State) (view : ViewId) : State :=
  match s.findView view with
  | none => s
  | some V =>
    let a := lineAddress V.line
    if rangeOk V.aw a Config.dumpBlock then
      { s with hold := some ⟨V.id, readPlan V a (BitVec.ofNat 16 Config.dumpBlock), some a⟩ }
    else (s.updateView view View.endDump).raiseRange view

end Sys2Proof.Machine
end

