-- ==== Sys2Proof/Machine/Fetch.lean ====
section
/-! DEFINITION. What the machine does next: which instruction, and in which state it runs (10_state.md R22, R46, R47;
20_memory.md R82: nothing is fetched from a store, a request arrives whole at a port and a bridge command is formed from the
latched descriptor). -/

namespace Sys2Proof.Machine

/-- A demand can be served only while the view has a DUMP in progress, with a line to read; a request always can
(41_memory_device_ops.md R177, R178; log 11). -/
def State.servable (s : State) : Presented → Bool
  | .request _ => true
  | .next v =>
    match s.findView v with
    | some V =>
      match V.dump with
      | some k => decide (V.line < k.toNat)
      | none => false
    | none => false

/-- What the k-th requester waits to present, if it can be served. -/
def State.waitingAt (s : State) (k : Nat) : Option Presented :=
  match s.requesters[k]? with
  | some (p :: _) => if s.servable p then some p else none
  | _ => none

/-- The requesters that wait with something that can be served. -/
def State.candidates (s : State) : List Nat :=
  (List.range s.requesters.length).filter fun k => (s.waitingAt k).isSome

/-- The requester served next: the only one, or a free choice among several (10_state.md R47; log 4). -/
def State.chosen (s : State) : Option Nat :=
  match s.candidates with
  | [] => none
  | [k] => some k
  | k :: ks => some ((k :: ks).getD (Config.arbiter s.grants % (k :: ks).length) k)

/-- The k-th requester's request has been taken from its port. -/
def State.take (s : State) (k : Nat) : State :=
  { s with requesters := s.requesters.modify k List.tail, grants := s.grants + 1 }

/-- What a state does next. -/
inductive Fetched where
  /-- run an instruction at a state -/
  | run (i : Instr) (at_ : State)
  /-- serve the demand for an element of a view's DUMP -/
  | element (view : ViewId) (at_ : State)
  /-- nothing: the block waits -/
  | wait
  /-- words at a port that are no request -/
  | notARequest (why : DecodeError)
  /-- phase `ABORT` -/
  | abort
  /-- phase `PAYLOAD_TRANSFER` -/
  | payload
  /-- phase `COMPLETION_WAIT` -/
  | completion
  /-- no row of 40_engine_ops.md R140 -/
  | none
deriving DecidableEq, Repr

/-- What waits at the ports (10_state.md R47): in a state that accepts, a request is taken from its port and runs, a demand
is served; in any other state a request keeps waiting (its meaning answers the state unchanged, or refuses what is not
well-formed, 60_exceptions.md R213). -/
def State.fetchPort (s : State) : Fetched :=
  match s.chosen with
  | Option.none => .wait
  | some k =>
    match s.waitingAt k with
    | Option.none => .wait
    | some (.next v) => if s.accepting then .element v (s.take k) else .wait
    | some (.request e) =>
      match decode e with
      | .rejected why => .notARequest why
      | .instr i => .run i (if s.accepting then s.take k else s)

/-- The transaction phases run only for a WRITE or a READ (40_engine_ops.md R140). -/
def State.inTransaction (s : State) : Bool := decide (s.td.op = .write ∨ s.td.op = .read)

/-- What a state does next, by phase (40_engine_ops.md R140, 10_state.md R46). In `IDLE` with a view holding the engine it
is that view's next engine request (10_state.md R47). -/
def State.fetch (s : State) : Fetched :=
  match s.seq with
  | .idle =>
    match s.hold with
    | some h =>
      match h.todo with
      | i :: _ => .run i s
      | [] => .wait
    | Option.none => s.fetchPort
  | .unbound | .failed => s.fetchPort
  | .resetRd | .resetWr | .statusCheck | .commandDispatch =>
    match s.bridgeCommand with
    | some i => .run i s
    | Option.none => .none
  | .abort => if s.inTransaction then .abort else .none
  | .payloadTransfer => if s.inTransaction then .payload else .none
  | .completionWait => if s.inTransaction then .completion else .none

/-! Placing one instruction where the next step finds it (log 12) -/

/-- A view of that name exists: one with a 4-byte address width and the default policies is created where there is none. -/
def State.ensureView (s : State) (v : ViewId) : State :=
  match s.findView v with
  | some _ => s
  | Option.none => { s with views := s.views ++ [View.create v 0#7 .four Policies.default] }

/-- One request waits at its port, presented by the only requester, and the engine is idle and free. -/
def State.withRequest (s : State) (e : Encoded) : State :=
  let s := { s with
    seq := .idle
    failed := false
    hold := Option.none
    outstanding := Option.none
    requesters := [[.request e]] }
  match e with
  | .mq v _ _ => s.ensureView v
  | .cw _ | .rq _ _ => s

/-- The engine stands in the phase that issues a bridge command, with the operands of the command latched; for `I2C_WRITE`
the payload buffer holds as many zero bytes as its length says (10_state.md R21). -/
def State.withCommand (s : State) (i : Instr) : State :=
  let s := { s with outstanding := Option.none }
  match i with
  | .resetRd => { s with seq := .resetRd, td := { s.td with op := .reset } }
  | .resetWr => { s with seq := .resetWr, td := { s.td with op := .reset } }
  | .getStatus => { s with seq := .statusCheck, td := { s.td with op := .status } }
  | .i2cWrite a st sp n =>
    { s with seq := .commandDispatch, td := ⟨.write, a, st, sp, n⟩, pbuf := List.replicate n.toNat 0#8 }
  | .i2cRead a st sp n => { s with seq := .commandDispatch, td := ⟨.read, a, st, sp, n⟩ }
  | .reset | .status | .write .. | .read .. | .mwrite .. | .mread .. | .dump .. => s

/-- The words stand where the next step finds them: a request at its port, a bridge command in its phase. -/
def State.placeWords (s : State) (e : Encoded) : State :=
  match e with
  | .cw w =>
    match decode (.cw w) with
    | .instr i => s.withCommand i
    | .rejected _ => s.withRequest e
  | .rq _ _ | .mq _ _ _ => s.withRequest e

end Sys2Proof.Machine
end

