-- ==== Sys2Proof/Machine/Dispatch.lean ====
section
/-! DEFINITION. The dispatch: one arm per row of the opcode table. -/

namespace Sys2Proof.Machine

def exec (i : Instr) (s : State) : Host.Outcome State Fault Refusal :=
  match i with
  | .resetRd => Sys2Proof.Machine.execResetRd s
  | .resetWr => Sys2Proof.Machine.execResetWr s
  | .getStatus => Sys2Proof.Machine.execGetStatus s
  | .i2cWrite addr start stop len => Sys2Proof.Machine.execI2cWrite addr start stop len s
  | .i2cRead addr start stop len => Sys2Proof.Machine.execI2cRead addr start stop len s
  | .reset => Sys2Proof.Machine.execReset s
  | .status => Sys2Proof.Machine.execStatus s
  | .write addr payload start stop => Sys2Proof.Machine.execWrite addr payload start stop s
  | .read addr length start stop => Sys2Proof.Machine.execRead addr length start stop s
  | .mwrite view sa data => Sys2Proof.Machine.execMwrite view sa data s
  | .mread view sa length => Sys2Proof.Machine.execMread view sa length s
  | .dump view lineCount => Sys2Proof.Machine.execDump view lineCount s

end Sys2Proof.Machine
end

