-- ==== Sys2Proof/Machine/Step.lean ====
section
/-! DEFINITION. One step: one accepted request, one transfer of a phase, the abort, or a wait (40_engine_ops.md R140;
log 1). -/

namespace Sys2Proof.Machine

/-- One step of the machine. A wait answers the same state: nothing moves on without the environment or a requester
(70_reset_and_hazards.md R255). -/
def step (s : State) : Host.Outcome State Fault Refusal :=
  match s.fetch with
  | .run i t => exec i t
  | .element v t => .next (t.demandElement v)
  | .wait => .next s
  | .notARequest why => .refused (.notARequest why)
  | .abort => .next s.abortOperation
  | .payload => .next s.payloadTransfer
  | .completion => .next s.completionWait
  | .none => .fault (.noTransition s.seq)

/-- The state with one instruction, given as the bits of a table row, stored where the next step finds it (log 12). Bits
that are no row's leave the state as it is. -/
def State.withFetchWord (s : State) (nbits w : Nat) : State :=
  match tableWords nbits w with
  | some e => s.placeWords e
  | none => s

end Sys2Proof.Machine
end

