-- ==== Sys2Proof/Safety.lean ====
section
/-! DEFINITION. What counts as a safe run, in the terms the statements use: the register invariants the rules state, the
discipline of the wire trace (20_memory.md R79, 40_engine_ops.md R147, R149, 70_reset_and_hazards.md R247, R248, R250), and
the pseudocode of the engine operations (40_engine_ops.md R142 to R150) as one run over the environment. -/

namespace Sys2Proof.Machine

/-- The machine after `k` steps, up to the first fault or refusal. -/
def State.after (s : State) (k : Nat) : Host.Outcome State Fault Refusal := Sys2Proof.core.run k s

/-- The transfer of the phase the engine stands in (10_state.md R46, 40_engine_ops.md R140), if the phase has one. -/
def State.phaseTransfer (s : State) : Option Transfer :=
  match s.seq, s.td.op with
  | .resetRd, .reset => some (.ctl cwResetRd)
  | .resetWr, .reset => some (.ctl cwResetWr)
  | .statusCheck, .status | .statusCheck, .write | .statusCheck, .read => some (.ctl cwGetStatus)
  | .commandDispatch, .write => some (.ctl (cwI2cWrite s.td.addr s.td.start s.td.stop s.td.len))
  | .commandDispatch, .read => some (.ctl (cwI2cRead s.td.addr s.td.start s.td.stop s.td.len))
  | .payloadTransfer, .write => some (.bout s.ep.bulkOut s.pbuf)
  | .payloadTransfer, .read => some (.bin s.ep.bulkIn s.td.len.toNat)
  | .completionWait, .write | .completionWait, .read => some (.int s.ep.interruptIn Config.completionLen)
  | _, _ => none

/-- The invariants the rules state of the registers, and of a view that holds the engine. -/
structure State.Inv (s : State) : Prop where
  /-- `FAILED` is 1 exactly when `SEQ = FAILED` (10_state.md R29) -/
  failed_iff : s.failed = true ↔ s.seq = .failed
  /-- `BOUND` is 1 exactly when all three handles are non-null (10_state.md R30) -/
  bound_iff : s.bound = true ↔ s.ep.interruptIn ≠ none ∧ s.ep.bulkIn ≠ none ∧ s.ep.bulkOut ≠ none
  /-- `SEQ` is `UNBOUND` exactly when `BOUND` is 0 (10_state.md R22, R30, R31) -/
  unbound_iff : s.seq = .unbound ↔ s.bound = false
  /-- the reset phases belong to RESET (40_engine_ops.md R140) -/
  reset_phase : s.seq = .resetRd ∨ s.seq = .resetWr → s.td.op = .reset
  /-- the status check belongs to STATUS, WRITE and READ (R140) -/
  status_phase : s.seq = .statusCheck → s.td.op ≠ .reset
  /-- the transaction phases belong to WRITE and READ (R140) -/
  transaction_phase :
    s.seq = .abort ∨ s.seq = .commandDispatch ∨ s.seq = .payloadTransfer ∨ s.seq = .completionWait →
      s.td.op = .write ∨ s.td.op = .read
  /-- `TD.len` is `len(PBUF)` for WRITE (10_state.md R21) -/
  payload_length : s.td.op = .write → s.td.len.toNat = s.pbuf.length
  /-- the bytes a READ will return number `TD.len` (40_engine_ops.md R151) -/
  read_length : s.seq = .completionWait → s.td.op = .read → s.rbuf.length = s.td.len.toNat
  /-- at most one transfer is outstanding, the phase's own (20_memory.md R79) -/
  outstanding_phase : ∀ t, s.outstanding = some t → s.phaseTransfer = some t
  /-- a view that holds the engine in `IDLE` has a request to issue (10_state.md R47) -/
  hold_idle : ∀ h, s.hold = some h → s.seq = .idle → h.todo ≠ []
  /-- nobody holds an engine that is failed or unbound (60_exceptions.md R211) -/
  hold_usable : s.hold ≠ none → s.seq ≠ .failed ∧ s.seq ≠ .unbound
  /-- a view issues well-formed engine requests only (41_memory_device_ops.md R170) -/
  hold_todo : ∀ h, s.hold = some h → ∀ i ∈ h.todo, Instr.isEngineRequest i = true ∧ i.wellFormed = true

/-! The discipline of the wire trace -/

/-- A transfer that returned a success with the right byte count (20_memory.md R74). -/
def succeeded (x : Transfer × Reply) : Bool :=
  match x.2 with
  | .ok bytes => x.1.countOk bytes
  | .fail | .never => false

/-- A status check that read not-busy (40_engine_ops.md R146). -/
def statusClear (x : Transfer × Reply) : Bool :=
  match x.2 with
  | .ok bytes => decide (x.1 = .ctl cwGetStatus) && interpret (threeBytes bytes)
  | .fail | .never => false

/-- Which transfer may follow which on the wire. Nothing follows a transfer that failed (40_engine_ops.md R154). A RESET or
a status check may begin at any time; `RESET_WR` follows `RESET_RD` (R142); a transaction command follows a status check
that read not-busy, with nothing between (R147, 70_reset_and_hazards.md R247); a bulk transfer follows its command and has
the length of its index field (R250); the completion read follows the bulk transfer (R149). -/
def mayFollow (prev : Option (Transfer × Reply)) (t : Transfer) : Bool :=
  prev.all succeeded &&
  match t with
  | .ctl c =>
    match decodeControl c with
    | .instr .resetRd | .instr .getStatus => true
    | .instr .resetWr => prev.any fun x => decide (x.1 = .ctl cwResetRd)
    | .instr (.i2cWrite ..) | .instr (.i2cRead ..) => prev.any statusClear
    | _ => false
  | .bout _ p =>
    prev.any fun x =>
      match x.1 with
      | .ctl c =>
        match decodeControl c with
        | .instr (.i2cWrite _ _ _ n) => decide (n.toNat = p.length)
        | _ => false
      | _ => false
  | .bin _ n =>
    prev.any fun x =>
      match x.1 with
      | .ctl c =>
        match decodeControl c with
        | .instr (.i2cRead _ _ _ m) => decide (m.toNat = n)
        | _ => false
      | _ => false
  | .int _ n =>
    decide (n = Config.completionLen) && prev.any fun x =>
      match x.1 with
      | .bout _ _ | .bin _ _ => true
      | .ctl _ | .int _ _ => false

/-- Every transfer of a wire trace may follow the one before it. -/
def wireOk (prev : Option (Transfer × Reply)) : List (Transfer × Reply) → Bool
  | [] => true
  | x :: xs => mayFollow prev x.1 && wireOk (some x) xs

/-- The wire trace keeps the discipline: what has returned does, and the transfer of the phase the engine stands in may
follow it. After the last transfer failed the engine is in `FAILED`. -/
structure State.WireInv (s : State) : Prop where
  trace : wireOk none s.wire = true
  phase : ∀ t, s.phaseTransfer = some t → mayFollow s.wire.getLast? t = true
  alive : s.seq ≠ .failed → s.wire.getLast?.all succeeded = true

/-! The pseudocode of the engine operations, run over the environment -/

/-- How a run of the pseudocode ends (00_scope.md R12): it returns a value, it raises an error kind, or it waits for a
transfer that has not returned. -/
inductive Ending where
  | returned (v : Value)
  | raised (c : ResultCode)
  | waiting (t : Transfer)
deriving DecidableEq, Repr

/-- A run of the pseudocode: the transfers that returned, the environment after them, and how it ended. -/
structure Run where
  wire : List (Transfer × Reply)
  env : Env
  ending : Ending
deriving DecidableEq, Repr

/-- One line `r <- T; if r = fail then raise TRANSPORT_IO` of the pseudocode, and the lines after it (00_scope.md R11,
20_memory.md R74). The wire trace and the wait are as in `State.perform` (log 29, log 30). -/
def callTransfer (timeout : Option Nat) (t : Transfer) (e : Env) (rest : List Byte → Env → Run) : Run :=
  match e.answer t with
  | none => ⟨[], e, .waiting t⟩
  | some (.ok bytes, e') =>
    if t.countOk bytes then
      let r := rest bytes e'
      ⟨(t, .ok bytes) :: r.wire, r.env, r.ending⟩
    else ⟨[(t, .ok bytes)], e', .raised .transportIo⟩
  | some (.fail, e') => ⟨[(t, .fail)], e', .raised .transportIo⟩
  | some (.never, e') =>
    match timeout with
    | none => ⟨[], e, .waiting t⟩
    | some _ => ⟨[(t, .never)], e', .raised .timeout⟩

/-- `return v`. -/
def returning (v : Value) (e : Env) : Run := ⟨[], e, .returned v⟩

/-- The box of RESET (40_engine_ops.md R142). -/
def runReset (timeout : Option Nat) (e : Env) : Run :=
  callTransfer timeout (.ctl cwResetRd) e fun _ e =>
    callTransfer timeout (.ctl cwResetWr) e fun _ e => returning .none e

/-- The box of STATUS (40_engine_ops.md R144, R145). -/
def runStatus (timeout : Option Nat) (e : Env) : Run :=
  callTransfer timeout (.ctl cwGetStatus) e fun s e => returning (.bit (interpret (threeBytes s))) e

/-- The box of WRITE (40_engine_ops.md R148). -/
def runWrite (timeout : Option Nat) (ep : EndpointSet) (addr : DevAddr) (payload : List Byte) (start stop : Bool)
    (e : Env) : Run :=
  callTransfer timeout (.ctl cwGetStatus) e fun s e =>
    if interpret (threeBytes s) then
      callTransfer timeout (.ctl (cwI2cWrite addr start stop (BitVec.ofNat 16 payload.length))) e fun _ e =>
        callTransfer timeout (.bout ep.bulkOut payload) e fun _ e =>
          callTransfer timeout (.int ep.interruptIn Config.completionLen) e fun _ e => returning .none e
    else ⟨[], e, .raised .busBusy⟩

/-- The box of READ (40_engine_ops.md R150). -/
def runRead (timeout : Option Nat) (ep : EndpointSet) (addr : DevAddr) (length : Half) (start stop : Bool)
    (e : Env) : Run :=
  callTransfer timeout (.ctl cwGetStatus) e fun s e =>
    if interpret (threeBytes s) then
      callTransfer timeout (.ctl (cwI2cRead addr start stop length)) e fun _ e =>
        callTransfer timeout (.bin ep.bulkIn length.toNat) e fun b e =>
          callTransfer timeout (.int ep.interruptIn Config.completionLen) e fun _ e => returning (.bytes b) e
    else ⟨[], e, .raised .busBusy⟩

/-- `t` is what the machine shows after the run `p` of an operation that was accepted at the host's ENG port in `s`: the
transfers of `p` have joined the wire trace, the environment is the one `p` left, and the operation ended, or waits, as `p`
did (10_state.md R48, 60_exceptions.md R209, R211, 70_reset_and_hazards.md R255). -/
def State.showsRun (s : State) (p : Run) (t : State) : Prop :=
  t.wire = s.wire ++ p.wire ∧ t.env = p.env ∧
  match p.ending with
  | .returned v =>
    t.seq = .idle ∧ t.err = .ok ∧ t.failed = false ∧ t.outstanding = none
      ∧ t.responses = s.responses ++ [⟨.eng, ⟨.ok, v⟩⟩]
  | .raised c =>
    t.seq = (if c = .busBusy then .idle else .failed) ∧ t.err = c ∧ t.failed = decide (c ≠ .busBusy)
      ∧ t.outstanding = none ∧ t.responses = s.responses ++ [⟨.eng, ⟨c, .none⟩⟩]
  | .waiting x =>
    t.phaseTransfer = some x ∧ t.outstanding = some x ∧ t.err = s.err ∧ t.failed = false ∧ t.responses = s.responses

end Sys2Proof.Machine
end

