-- ==== Sys2Proof/Certificates/Slice0/Obligations.lean ====
section
/-! DEFINITION. The statements for the provers. Each names the rule of spec/ it formalises; hypotheses are on the state, the
operands and the environment's next answer alone (20_memory.md R84). -/

open Sys2Proof Sys2Proof.Machine

/-! Encodings -/

/-- Decoding the words of any well-formed instruction gives the instruction back, with every operand (30_encoding.md R110,
R114 to R117). -/
def Obligations.DecodeEncodeRoundTrip : Prop :=
  ∀ i : Instr, i.wellFormed = true → decode (encode i) = .instr i

/-- 30_encoding.md R106: `pack` is `(addr << 8) | (stop << 1) | start`, which is `256*addr + 2*stop + start`, at most
0x7F03; and its examples. -/
def Obligations.PackIsTheValueField : Prop :=
  (∀ (a : DevAddr) (st sp : Bool),
    pack a st sp = (a.setWidth 16 <<< 8) ||| ((BitVec.ofBool sp).setWidth 16 <<< 1) ||| (BitVec.ofBool st).setWidth 16
    ∧ (pack a st sp).toNat = 256 * a.toNat + 2 * sp.toNat + st.toNat ∧ (pack a st sp).toNat ≤ 0x7F03)
  ∧ pack 0x50#7 true false = 0x5001#16 ∧ pack 0x50#7 true true = 0x5003#16 ∧ pack 0x50#7 false true = 0x5002#16
  ∧ pack 0x00#7 false false = 0x0000#16 ∧ pack 0x7F#7 true true = 0x7F03#16

/-- 30_encoding.md R107: `unpack` reads bits 14 to 8, 0 and 1; it recovers the operands of `pack`, which is injective. -/
def Obligations.UnpackRecoversOperands : Prop :=
  (∀ v : Half, unpack v = (v.extractLsb' 8 7, v.getLsbD 0, v.getLsbD 1))
  ∧ (∀ (a : DevAddr) (st sp : Bool), unpack (pack a st sp) = (a, st, sp))
  ∧ ∀ (a b : DevAddr) (st sp st' sp' : Bool), pack a st sp = pack b st' sp' → a = b ∧ st = st' ∧ sp = sp'

/-- 30_encoding.md R110: a control word is the command of a row exactly when `c & mask = match`, with the matches and masks
of the table; the operands of the last two rows are the fields of the word. -/
def Obligations.CommandRowsMatchTheirMasks : Prop :=
  ∀ w : BitVec 57,
    (decode (.cw w) = .instr .resetRd ↔ w &&& 0x1FFFFFFFFFFFFFF#57 = 0x1C9000000000000#57)
    ∧ (decode (.cw w) = .instr .resetWr ↔ w &&& 0x1FFFFFFFFFFFFFF#57 = 0x1C9000100000000#57)
    ∧ (decode (.cw w) = .instr .getStatus ↔ w &&& 0x1FFFFFFFFFFFFFF#57 = 0x1C8000000000003#57)
    ∧ (∀ (a : DevAddr) (st sp : Bool) (n : Half), decode (.cw w) = .instr (.i2cWrite a st sp n) ↔
        w &&& 0x1FF80FC0000FFFF#57 = 0x0C6000000000000#57 ∧ a = w.extractLsb' 40 7 ∧ st = w.getLsbD 32
          ∧ sp = w.getLsbD 33 ∧ n = w.extractLsb' 16 16)
    ∧ (∀ (a : DevAddr) (st sp : Bool) (n : Half), decode (.cw w) = .instr (.i2cRead a st sp n) ↔
        w &&& 0x1FF80FC0000FFFF#57 = 0x0C7000000000000#57 ∧ a = w.extractLsb' 40 7 ∧ st = w.getLsbD 32
          ∧ sp = w.getLsbD 33 ∧ n = w.extractLsb' 16 16)

/-- 30_encoding.md R116 with R114, R115, R117: an `RQ` word followed by no byte is a RESET, a STATUS or a READ exactly when it
matches the row; one followed by as many bytes as its `len` is a WRITE exactly when it matches the row; so for `MQ` words,
MREAD, DUMP and MWRITE; the operands are the fields of the word; an `op` of 0x7 to 0xF is reserved. -/
def Obligations.RequestRowsMatchTheirMasks : Prop :=
  (∀ w : BitVec 32,
    (decode (.rq w []) = .instr .reset ↔ w &&& 0xFFFFFFFF#32 = 0x00000000#32)
    ∧ (decode (.rq w []) = .instr .status ↔ w &&& 0xFFFFFFFF#32 = 0x10000000#32)
    ∧ (∀ (a : DevAddr) (n : Half) (st sp : Bool), decode (.rq w []) = .instr (.read a n st sp) ↔
        w &&& 0xFE000000#32 = 0x30000000#32 ∧ a = w.extractLsb' 18 7 ∧ n = w.extractLsb' 0 16 ∧ st = w.getLsbD 16
          ∧ sp = w.getLsbD 17)
    ∧ (∀ p : List Byte, p.length = (w.extractLsb' 0 16).toNat → ∀ (a : DevAddr) (q : List Byte) (st sp : Bool),
        decode (.rq w p) = .instr (.write a q st sp) ↔
          w &&& 0xFE000000#32 = 0x20000000#32 ∧ a = w.extractLsb' 18 7 ∧ q = p ∧ st = w.getLsbD 16 ∧ sp = w.getLsbD 17)
    ∧ ∀ p : List Byte, 0x7#4 ≤ w.extractLsb' 28 4 → decode (.rq w p) = .rejected .reservedOp)
  ∧ ∀ (v : ViewId) (w : BitVec 52),
    (∀ (u : ViewId) (sa : StartAddr) (n : Half), decode (.mq v w []) = .instr (.mread u sa n) ↔
        w &&& 0xF000000000000#52 = 0x5000000000000#52 ∧ u = v ∧ sa = w.extractLsb' 16 32 ∧ n = w.extractLsb' 0 16)
    ∧ (∀ (u : ViewId) (k : Half), decode (.mq v w []) = .instr (.dump u k) ↔
        w &&& 0xFFFFFFFFF0000#52 = 0x6000000000000#52 ∧ u = v ∧ k = w.extractLsb' 0 16)
    ∧ (∀ d : List Byte, d.length = (w.extractLsb' 0 16).toNat → ∀ (u : ViewId) (sa : StartAddr) (q : List Byte),
        decode (.mq v w d) = .instr (.mwrite u sa q) ↔
          w &&& 0xF000000000000#52 = 0x4000000000000#52 ∧ u = v ∧ sa = w.extractLsb' 16 32 ∧ q = d)
    ∧ ∀ d : List Byte, 0x7#4 ≤ w.extractLsb' 48 4 → decode (.mq v w d) = .rejected .reservedOp

/-- Words written out from the spec's encodings (95_test_vectors.md B and C) decode to their instructions. -/
def Obligations.WrittenWordsDecode : Prop :=
  decode (.cw 0x1C9000000000000#57) = .instr .resetRd
  ∧ decode (.cw 0x1C9000100000000#57) = .instr .resetWr
  ∧ decode (.cw 0x1C8000000000003#57) = .instr .getStatus
  ∧ decode (.cw 0x0C6510200000000#57) = .instr (.i2cWrite 0x51#7 false true 0#16)
  ∧ decode (.cw 0x0C77F03FFFF0000#57) = .instr (.i2cRead 0x7F#7 true true 65535#16)
  ∧ decode (.rq 0x31430020#32 []) = .instr (.read 0x50#7 32#16 true true)
  ∧ decode (.mq 7 0x500003FE00020#52 []) = .instr (.mread 7 0x3FE0#32 32#16)
  ∧ decode (.mq 7 0x6000000000002#52 []) = .instr (.dump 7 2#16)

/-- The 57 bits of the control words of the five commands (42_bridge_commands.md R191 to R195). That a command is sent with its
word is said by StepRunsTheInstruction, ResetCommandsComplete, GetStatusCompletes and TransactionCommandsComplete. -/
def Obligations.ControlWordsOfTheCommands : Prop :=
  cwResetRd.bits = 0x1C9000000000000#57 ∧ cwResetWr.bits = 0x1C9000100000000#57
  ∧ cwGetStatus.bits = 0x1C8000000000003#57
  ∧ (∀ (a : DevAddr) (st sp : Bool) (n : Half),
      (cwI2cWrite a st sp n).bits
        = 0x0C6000000000000#57 ||| ((pack a st sp).setWidth 57 <<< 32) ||| (n.setWidth 57 <<< 16))
  ∧ ∀ (a : DevAddr) (st sp : Bool) (n : Half),
      (cwI2cRead a st sp n).bits
        = 0x0C7000000000000#57 ||| ((pack a st sp).setWidth 57 <<< 32) ||| (n.setWidth 57 <<< 16)

/-! Operands and the flag -/

/-- 41_memory_device_ops.md R172: `BE_w(a)` has `w` bytes, byte `i` being `(a div 256^(w-1-i)) mod 256`. -/
def Obligations.PrefixIsBigEndian : Prop :=
  ∀ w a : Nat, (bigEndian w a).length = w
    ∧ ∀ i, i < w → ((bigEndian w a).getD i 0#8).toNat = a / 256 ^ (w - 1 - i) % 256

/-- 40_engine_ops.md R146: `interpret` is false exactly when bit 0 of byte 0 is 1, and no other bit ever changes it. -/
def Obligations.InterpretReadsOneBit : Prop :=
  (∀ s : ThreeBytes, interpret s = false ↔ s.b0.getLsbD 0 = true)
  ∧ (∀ s : ThreeBytes, interpret s = decide (s.b0 &&& 0x01#8 = 0#8))
  ∧ (∀ x y z : Byte, interpret ⟨x, y, z⟩ = interpret ⟨x &&& 0x01#8, 0#8, 0#8⟩)
  ∧ interpret ⟨0x80#8, 0#8, 0#8⟩ = true ∧ interpret ⟨0x20#8, 0#8, 0#8⟩ = true ∧ interpret ⟨0x01#8, 0#8, 0#8⟩ = false

/-! The step -/

/-- The instruction that waits, or that the phase forms, is the one that runs (10_state.md R46, R47): a request served at a
port, at the state with the request taken from it; the next engine request of the view that holds the engine; the bridge
command of a control phase. -/
def Obligations.StepRunsTheInstruction : Prop :=
  (∀ (s : State) (k : Nat) (e : Encoded) (i : Instr), s.accepting = true → s.chosen = some k →
    s.waitingAt k = some (.request e) → decode e = .instr i → step s = exec i (s.take k))
  ∧ (∀ (s : State) (h : Hold) (i : Instr) (rest : List Instr), s.seq = .idle → s.hold = some h → h.todo = i :: rest →
    step s = exec i s)
  ∧ ∀ (s : State) (i : Instr), s.bridgeCommand = some i →
    step s = exec i s ∧ ∃ c : ControlWord, encode i = .cw c.bits ∧ s.phaseTransfer = some (.ctl c)

/-- 30_encoding.md R120: words at a port that are no request get no step, in every state that looks at its ports. -/
def Obligations.ReservedWordsAreRefused : Prop :=
  ∀ (s : State) (k : Nat) (e : Encoded) (why : DecodeError),
    (s.seq = .idle ∧ s.hold = none ∨ s.seq = .failed ∨ s.seq = .unbound) → s.chosen = some k →
    s.waitingAt k = some (.request e) → decode e = .rejected why → step s = .refused (.notARequest why)

/-- 10_state.md R47: a well-formed request that is not accepted waits; the state is unchanged. -/
def Obligations.RequestNotAcceptedWaits : Prop :=
  (∀ (s : State) (i : Instr), i.isEngineRequest = true → i.wellFormed = true →
    (s.ready = false ∨ ∃ h, s.hold = some h ∧ h.todo.head? ≠ some i) → exec i s = .next s)
  ∧ (∀ (s : State) (V : View) (v : ViewId) (sa : StartAddr) (d : List Byte), s.findView v = some V →
    fitsView V.aw d = true → s.accepting = false → exec (.mwrite v sa d) s = .next s)
  ∧ (∀ (s : State) (V : View) (v : ViewId) (sa : StartAddr) (n : Half), s.findView v = some V →
    s.accepting = false → exec (.mread v sa n) s = .next s)
  ∧ ∀ (s : State) (V : View) (v : ViewId) (k : Half), s.findView v = some V →
    s.accepting = false → exec (.dump v k) s = .next s

/-- 30_encoding.md R127: a WRITE or MWRITE whose payload does not fit is refused, in every state. -/
def Obligations.IllFormedRequestsAreRefused : Prop :=
  (∀ (s : State) (a : DevAddr) (p : List Byte) (st sp : Bool), Config.lenMax < p.length →
    exec (.write a p st sp) s = .refused .illFormed)
  ∧ ∀ (s : State) (V : View) (v : ViewId) (sa : StartAddr) (d : List Byte), s.findView v = some V →
    Config.lenMax < V.aw.bytes + d.length → exec (.mwrite v sa d) s = .refused .illFormed

/-! Engine requests -/

/-- 40_engine_ops.md R141: what acceptance latches and where `SEQ` goes, for each engine operation; nothing else changes. -/
def Obligations.EngineRequestsAreLatched : Prop :=
  ∀ s : State, s.accepting = true →
    exec .reset s = .next { s with td := { s.td with op := .reset, len := 0#16 }, seq := .resetRd }
    ∧ exec .status s = .next { s with td := { s.td with op := .status, len := 0#16 }, seq := .statusCheck }
    ∧ (∀ (a : DevAddr) (p : List Byte) (st sp : Bool), p.length ≤ Config.lenMax →
        exec (.write a p st sp) s
          = .next { s with td := ⟨.write, a, st, sp, BitVec.ofNat 16 p.length⟩, pbuf := p, seq := .statusCheck })
    ∧ ∀ (a : DevAddr) (n : Half) (st sp : Bool),
        exec (.read a n st sp) s = .next { s with td := ⟨.read, a, st, sp, n⟩, seq := .statusCheck }

/-- 10_state.md R47: the next engine request of the view that holds the engine is accepted just as the host's would be if
nobody held it, and the view goes on holding with one request less to issue. -/
def Obligations.ViewRequestIsAccepted : Prop :=
  ∀ (s t : State) (h : Hold) (i : Instr) (rest : List Instr), s.ready = true → s.hold = some h → h.todo = i :: rest →
    i.isEngineRequest = true → exec i { s with hold := none } = .next t →
    exec i s = .next { t with hold := some { h with todo := rest } }

/-! Bridge commands -/

/-- 42_bridge_commands.md R191, R192 with 40_engine_ops.md R140, R142: `RESET_RD` that returns `ok` goes on to `RESET_WR`;
`RESET_WR` that returns `ok` ends the RESET with `OK` and no value, to the host or to the view that holds the engine. -/
def Obligations.ResetCommandsComplete : Prop :=
  (∀ (s : State) (e : Env), s.seq = .resetRd → s.env.answer (.ctl cwResetRd) = some (.ok [], e) →
    exec .resetRd s = .next
      { s with seq := .resetWr, outstanding := none, wire := s.wire ++ [(.ctl cwResetRd, .ok [])], env := e })
  ∧ (∀ (s : State) (e : Env), s.seq = .resetWr → s.hold = none → s.env.answer (.ctl cwResetWr) = some (.ok [], e) →
    exec .resetWr s = .next
      { s with
        seq := .idle, err := .ok, outstanding := none, wire := s.wire ++ [(.ctl cwResetWr, .ok [])], env := e
        responses := s.responses ++ [⟨.eng, ⟨.ok, .none⟩⟩] })
  ∧ ∀ (s : State) (e : Env) (h : Hold), s.seq = .resetWr → s.hold = some h → h.todo ≠ [] →
    s.env.answer (.ctl cwResetWr) = some (.ok [], e) →
    exec .resetWr s = .next
      { s with
        seq := .idle, err := .ok, outstanding := none, wire := s.wire ++ [(.ctl cwResetWr, .ok [])], env := e
        responses := s.responses ++ [⟨.engToView h.view, ⟨.ok, .none⟩⟩] }

/-- 42_bridge_commands.md R193 with 40_engine_ops.md R140, R144, R145: the three bytes are latched in `STS`; STATUS ends
with `OK` and the negated busy flag; WRITE and READ go on, or to `ABORT` when the flag is set. -/
def Obligations.GetStatusCompletes : Prop :=
  ∀ (s : State) (e : Env) (x y z : Byte), s.seq = .statusCheck →
    s.env.answer (.ctl cwGetStatus) = some (.ok [x, y, z], e) →
    (s.td.op = .status → s.hold = none →
      exec .getStatus s = .next
        { s with
          sts := ⟨x, y, z⟩, seq := .idle, err := .ok, outstanding := none, env := e
          wire := s.wire ++ [(.ctl cwGetStatus, .ok [x, y, z])]
          responses := s.responses ++ [⟨.eng, ⟨.ok, .bit (!x.getLsbD 0)⟩⟩] })
    ∧ (s.td.op = .write ∨ s.td.op = .read →
      exec .getStatus s = .next
        { s with
          sts := ⟨x, y, z⟩, seq := if x.getLsbD 0 then .abort else .commandDispatch, outstanding := none, env := e
          wire := s.wire ++ [(.ctl cwGetStatus, .ok [x, y, z])] })

/-- 42_bridge_commands.md R194, R195 with 40_engine_ops.md R140: the transaction command that returns `ok` goes on to the
bulk transfer. The rules expect no data back; that any bytes the reply carries are discarded, and do not stop the phase, is the
model's reading (log 9). -/
def Obligations.TransactionCommandsComplete : Prop :=
  ∀ (s : State) (e : Env) (a : DevAddr) (st sp : Bool) (n : Half) (bytes : List Byte), s.seq = .commandDispatch →
    (s.td = ⟨.write, a, st, sp, n⟩ → s.env.answer (.ctl (cwI2cWrite a st sp n)) = some (.ok bytes, e) →
      exec (.i2cWrite a st sp n) s = .next
        { s with
          seq := .payloadTransfer, outstanding := none, env := e
          wire := s.wire ++ [(.ctl (cwI2cWrite a st sp n), .ok bytes)] })
    ∧ (s.td = ⟨.read, a, st, sp, n⟩ → s.env.answer (.ctl (cwI2cRead a st sp n)) = some (.ok bytes, e) →
      exec (.i2cRead a st sp n) s = .next
        { s with
          seq := .payloadTransfer, outstanding := none, env := e
          wire := s.wire ++ [(.ctl (cwI2cRead a st sp n), .ok bytes)] })

/-- 42_bridge_commands.md R190: a bridge command is never issued outside its phase or with other arguments than the latched
ones. -/
def Obligations.CommandsAreNeverIssuedElsewhere : Prop :=
  ∀ (s : State), (s.seq ≠ .resetRd → exec .resetRd s = .refused .commandNotDue)
    ∧ (s.seq ≠ .resetWr → exec .resetWr s = .refused .commandNotDue)
    ∧ (s.seq ≠ .statusCheck → exec .getStatus s = .refused .commandNotDue)
    ∧ ∀ (a : DevAddr) (st sp : Bool) (n : Half),
      (s.seq ≠ .commandDispatch ∨ s.td ≠ ⟨.write, a, st, sp, n⟩ → exec (.i2cWrite a st sp n) s = .refused .commandNotDue)
      ∧ (s.seq ≠ .commandDispatch ∨ s.td ≠ ⟨.read, a, st, sp, n⟩ → exec (.i2cRead a st sp n) s = .refused .commandNotDue)

/-! The other phases -/

/-- 40_engine_ops.md R140: a WRITE's bulk-out of the whole payload buffer on `EP.bulk_out`, a READ's bulk-in of exactly
`TD.len` bytes on `EP.bulk_in`, kept in `RBUF`; then the completion wait. A bulk-out hands back no bytes (20_memory.md R71);
that any its reply carries are discarded is the model's reading (log 9). -/
def Obligations.BulkTransferCompletes : Prop :=
  ∀ (s : State) (e : Env) (bytes : List Byte), s.seq = .payloadTransfer →
    (s.td.op = .write → s.env.answer (.bout s.ep.bulkOut s.pbuf) = some (.ok bytes, e) →
      step s = .next
        { s with
          seq := .completionWait, outstanding := none, env := e
          wire := s.wire ++ [(.bout s.ep.bulkOut s.pbuf, .ok bytes)] })
    ∧ (s.td.op = .read → s.env.answer (.bin s.ep.bulkIn s.td.len.toNat) = some (.ok bytes, e) →
      bytes.length = s.td.len.toNat →
      step s = .next
        { s with
          rbuf := bytes, seq := .completionWait, outstanding := none, env := e
          wire := s.wire ++ [(.bin s.ep.bulkIn s.td.len.toNat, .ok bytes)] })

/-- 40_engine_ops.md R140, R149: the arrival of the three completion bytes ends the transaction with `OK`: nothing for a
WRITE, the bytes of `RBUF` for a READ. -/
def Obligations.CompletionEndsTheTransaction : Prop :=
  ∀ (s : State) (e : Env) (x y z : Byte) (v : Value), s.seq = .completionWait → s.hold = none →
    s.env.answer (.int s.ep.interruptIn 3) = some (.ok [x, y, z], e) →
    (s.td.op = .write ∧ v = .none ∨ s.td.op = .read ∧ v = .bytes s.rbuf) →
    step s = .next
      { s with
        cmp := ⟨x, y, z⟩, seq := .idle, err := .ok, outstanding := none, env := e
        wire := s.wire ++ [(.int s.ep.interruptIn 3, .ok [x, y, z])]
        responses := s.responses ++ [⟨.eng, ⟨.ok, v⟩⟩] }

/-- 30_encoding.md R112, 40_engine_ops.md R149: the content of the completion bytes reaches only `CMP` and the wire trace. -/
def Obligations.CompletionBytesAreNotInspected : Prop :=
  ∀ (s t t' : State) (rs : List Reply) (x y z x' y' z' : Byte), s.seq = .completionWait →
    step { s with env := .oracle (.ok [x, y, z] :: rs) } = .next t →
    step { s with env := .oracle (.ok [x', y', z'] :: rs) } = .next t' →
    { t with cmp := t'.cmp, wire := t'.wire } = t'

/-- 40_engine_ops.md R146: two status words that agree on bit 0 of byte 0 lead to the same state but for `STS` and the wire
trace. -/
def Obligations.OnlyTheBusyBitIsRead : Prop :=
  ∀ (s t t' : State) (rs : List Reply) (x y z x' y' z' : Byte), s.seq = .statusCheck → x.getLsbD 0 = x'.getLsbD 0 →
    step { s with env := .oracle (.ok [x, y, z] :: rs) } = .next t →
    step { s with env := .oracle (.ok [x', y', z'] :: rs) } = .next t' →
    { t with sts := t'.sts, wire := t'.wire } = t'

/-! Errors -/

/-- 40_engine_ops.md R153: a busy status inside WRITE or READ takes `SEQ` through `ABORT` to `IDLE` with `BUS_BUSY` and no
value, no transfer after the Get status, and leaves the engine ready; a view that held the engine holds it no more and its
composite ends with the same code (41_memory_device_ops.md R176), which ends the DUMP whose element it was and leaves every
view's `LINE` and all other views as they were (R177). -/
def Obligations.BusyStatusAborts : Prop :=
  ∀ (s : State) (e : Env) (x y z : Byte), s.seq = .statusCheck → (s.td.op = .write ∨ s.td.op = .read) →
    s.env.answer (.ctl cwGetStatus) = some (.ok [x, y, z], e) → x.getLsbD 0 = true →
    ∃ m t, step s = .next m ∧ m.seq = .abort ∧ step m = .next t
      ∧ t.seq = .idle ∧ t.err = .busBusy ∧ t.failed = s.failed ∧ t.bound = s.bound ∧ t.hold = none
      ∧ t.outstanding = none ∧ t.env = e ∧ t.wire = s.wire ++ [(.ctl cwGetStatus, .ok [x, y, z])]
      ∧ (s.bound = true → s.failed = false → t.accepting = true)
      ∧ (s.hold = none → t.views = s.views)
      ∧ (∀ h, s.hold = some h → (h.element = none → t.views = s.views)
        ∧ ∀ a, h.element = some a → t.views
            = s.views.map fun W => if W.id = h.view then { W with dump := none } else W)
      ∧ (s.hold = none → t.responses = s.responses ++ [⟨.eng, ⟨.busBusy, .none⟩⟩])
      ∧ ∀ h, s.hold = some h → t.responses
          = s.responses ++ [⟨.engToView h.view, ⟨.busBusy, .none⟩⟩, ⟨.mem h.view, ⟨.busBusy, .none⟩⟩]

/-- 40_engine_ops.md R154, 60_exceptions.md R211: in any of the six transfer phases a transfer that fails, or succeeds with
another byte count (20_memory.md R74), ends the operation in `FAILED` with `TRANSPORT_IO` and no value, releases the engine,
and the state never changes again. A composite ends with the same code (41_memory_device_ops.md R176), and so does the DUMP
whose element it was, every view's `LINE` and all other views staying as they were (R177). That the wire trace shows a
success with another byte count as the transport layer's own `ok` is the model's choice (log 29). -/
def Obligations.TransferFailureIsTerminal : Prop :=
  ∀ (s : State) (t : Transfer) (r : Reply) (e : Env), s.phaseTransfer = some t → s.env.answer t = some (r, e) →
    (r = .fail ∨ ∃ bytes, r = .ok bytes ∧ t.countOk bytes = false) →
    ∃ u, step s = .next u ∧ u.seq = .failed ∧ u.failed = true ∧ u.err = .transportIo ∧ u.hold = none
      ∧ u.outstanding = none ∧ u.env = e ∧ u.wire = s.wire ++ [(t, r)]
      ∧ (s.hold = none → u.views = s.views)
      ∧ (∀ h, s.hold = some h → (h.element = none → u.views = s.views)
        ∧ ∀ a, h.element = some a → u.views
            = s.views.map fun W => if W.id = h.view then { W with dump := none } else W)
      ∧ (s.hold = none → u.responses = s.responses ++ [⟨.eng, ⟨.transportIo, .none⟩⟩])
      ∧ (∀ h, s.hold = some h → u.responses
          = s.responses ++ [⟨.engToView h.view, ⟨.transportIo, .none⟩⟩, ⟨.mem h.view, ⟨.transportIo, .none⟩⟩])
      ∧ ∀ k w, u.after k = .next w → w = u

/-- 60_exceptions.md R207: where `XFER_TIMEOUT` has a value, a transfer that does not return within it ends the operation with
code 7 and otherwise exactly as a failure does (R211): no value, the response to the host, or to the view and at its MEM port,
the wire trace longer by that transfer alone, a DUMP element's DUMP over; where it has none, it waits. That the transfer stands
on the wire trace with the outcome `never` is the model's reading (log 23). -/
def Obligations.TimeoutOnlyWhereBounded : Prop :=
  ∀ (s : State) (t : Transfer) (e : Env), s.phaseTransfer = some t → s.env.answer t = some (.never, e) →
    (∀ n, s.timeout = some n → ∃ u, step s = .next u ∧ u.seq = .failed ∧ u.failed = true ∧ u.err = .timeout
      ∧ resultNumber u.err = 7#4 ∧ u.hold = none ∧ u.outstanding = none ∧ u.env = e ∧ u.wire = s.wire ++ [(t, .never)]
      ∧ (s.hold = none → u.views = s.views)
      ∧ (∀ h, s.hold = some h → (h.element = none → u.views = s.views)
        ∧ ∀ a, h.element = some a → u.views
            = s.views.map fun W => if W.id = h.view then { W with dump := none } else W)
      ∧ (s.hold = none → u.responses = s.responses ++ [⟨.eng, ⟨.timeout, .none⟩⟩])
      ∧ (∀ h, s.hold = some h → u.responses
          = s.responses ++ [⟨.engToView h.view, ⟨.timeout, .none⟩⟩, ⟨.mem h.view, ⟨.timeout, .none⟩⟩])
      ∧ ∀ k w, u.after k = .next w → w = u)
    ∧ (s.timeout = none → step s = .next (s.issue t))

/-- 70_reset_and_hazards.md R255: while the environment has not answered the transfer of a phase, the machine stays there
for any number of steps: the transfer is issued, nothing else happens. The model's choices are what an unanswered transfer is: an
empty list of replies means that the environment has not answered yet, whether or not `XFER_TIMEOUT` has a value (log 2), and only
a reply `never` is a wait long enough to exceed that value, which then raises `TIMEOUT` and so is no case here (log 3,
60_exceptions.md R207); and that the wait takes no reply from the environment (log 30). -/
def Obligations.UnansweredTransferWaitsForEver : Prop :=
  ∀ (s : State) (t : Transfer), s.phaseTransfer = some t →
    (s.env.answer t = none ∨ (∃ e, s.env.answer t = some (.never, e)) ∧ s.timeout = none) →
    ∀ k, s.after (k + 1) = .next (s.issue t)

/-- 60_exceptions.md R210, 41_memory_device_ops.md R171: MWRITE counts the data bytes alone; out of range, MWRITE and MREAD
end with `RANGE_EXCEEDED` at the view's port, and only `ERR` and the responses change: no transfer, `SEQ` stays `IDLE`,
the view never held the engine. -/
def Obligations.OutOfRangeIssuesNothing : Prop :=
  (∀ (aw : AddrWidth) (sa : StartAddr) (n : Nat),
    rangeOk aw sa n = true ↔ sa.toNat + n ≤ 256 ^ aw.bytes ∧ sa.toNat < 256 ^ aw.bytes)
  ∧ (∀ (s : State) (V : View) (v : ViewId) (sa : StartAddr) (d : List Byte), s.accepting = true →
    s.findView v = some V → fitsView V.aw d = true → rangeOk V.aw sa d.length = false →
    exec (.mwrite v sa d) s = .next
      { s with err := .rangeExceeded, responses := s.responses ++ [⟨.mem v, ⟨.rangeExceeded, .none⟩⟩] })
  ∧ ∀ (s : State) (V : View) (v : ViewId) (sa : StartAddr) (n : Half), s.accepting = true →
    s.findView v = some V → rangeOk V.aw sa n.toNat = false →
    exec (.mread v sa n) s = .next
      { s with err := .rangeExceeded, responses := s.responses ++ [⟨.mem v, ⟨.rangeExceeded, .none⟩⟩] }

/-! Memory-device operations -/

/-- 41_memory_device_ops.md R173, R179: an accepted MWRITE in range makes the view hold the engine for one WRITE, whose
payload is the big-endian address and the data, with the write policy. -/
def Obligations.MwritePlansOneWrite : Prop :=
  ∀ (s : State) (V : View) (v : ViewId) (sa : StartAddr) (d : List Byte), s.accepting = true → s.findView v = some V →
    V.aw.bytes + d.length ≤ Config.lenMax → sa.toNat + d.length ≤ 256 ^ V.aw.bytes → sa.toNat < 256 ^ V.aw.bytes →
    exec (.mwrite v sa d) s = .next
      { s with
        hold := some ⟨v, [.write V.devAddr (bigEndian V.aw.bytes sa.toNat ++ d) V.wrStart V.wrStop], none⟩ }

/-- 41_memory_device_ops.md R174, R179: an accepted MREAD in range makes the view hold the engine for RESET, the
address-phase WRITE with the write policy, and the data-phase READ with the read policy. -/
def Obligations.MreadPlansThreeOperations : Prop :=
  ∀ (s : State) (V : View) (v : ViewId) (sa : StartAddr) (n : Half), s.accepting = true → s.findView v = some V →
    sa.toNat + n.toNat ≤ 256 ^ V.aw.bytes → sa.toNat < 256 ^ V.aw.bytes →
    exec (.mread v sa n) s = .next
      { s with
        hold := some ⟨v, [.reset, .write V.devAddr (bigEndian V.aw.bytes sa.toNat) V.wrStart V.wrStop,
          .read V.devAddr n V.rdStart V.rdStop], none⟩ }

/-- 41_memory_device_ops.md R177, 10_state.md R42: an accepted DUMP sets `V.LINE` to 0 and issues nothing; with a line count
of 0 there is no element to come. That `ERR` is then `OK` is the model's choice (log 11). -/
def Obligations.DumpStartsAtLineZero : Prop :=
  ∀ (s : State) (V : View) (v : ViewId) (k : Half), s.accepting = true → s.findView v = some V →
    exec (.dump v k) s = .next
      { s with
        views := s.views.map fun W =>
          if W.id = v then { W with line := 0, dump := if k = 0#16 then none else some k } else W
        err := if k = 0#16 then .ok else s.err }

/-- 41_memory_device_ops.md R177, R178: the demand for the next element of a DUMP is an MREAD of 32 bytes at `line * 32`
where that is in range; else it ends the DUMP with `RANGE_EXCEEDED` and the view's `LINE` stays. -/
def Obligations.DumpDemandReadsOneLine : Prop :=
  ∀ (s : State) (k : Nat) (V : View) (v : ViewId) (n : Half), s.accepting = true → s.chosen = some k →
    s.waitingAt k = some (.next v) → s.findView v = some V → V.dump = some n → V.line < n.toNat →
    (V.line * 32 + 32 ≤ 256 ^ V.aw.bytes →
      step s = .next
        { s.take k with
          hold := some ⟨v, readPlan V (BitVec.ofNat 32 (V.line * 32)) 32#16, some (BitVec.ofNat 32 (V.line * 32))⟩ })
    ∧ (256 ^ V.aw.bytes < V.line * 32 + 32 →
      step s = .next
        { s.take k with
          views := s.views.map fun W => if W.id = v then { W with dump := none } else W
          err := .rangeExceeded
          responses := s.responses ++ [⟨.mem v, ⟨.rangeExceeded, .none⟩⟩] })

/-- 41_memory_device_ops.md R177: when the READ of a DUMP element ends, the element (address, bytes) is delivered at the MEM
port, `LINE` goes one on, and after the last line the DUMP is over. -/
def Obligations.DumpElementIsDelivered : Prop :=
  ∀ (s : State) (e : Env) (v : ViewId) (a : StartAddr) (x y z : Byte), s.seq = .completionWait → s.td.op = .read →
    s.hold = some ⟨v, [], some a⟩ → s.env.answer (.int s.ep.interruptIn 3) = some (.ok [x, y, z], e) →
    ∃ t, step s = .next t ∧ t.seq = .idle ∧ t.err = .ok ∧ t.hold = none ∧ t.rbuf = s.rbuf
      ∧ t.responses = s.responses
          ++ [⟨.engToView v, ⟨.ok, .bytes s.rbuf⟩⟩, ⟨.mem v, ⟨.ok, .element a s.rbuf⟩⟩]
      ∧ t.views = s.views.map fun W =>
          if W.id = v then
            { W with
              line := W.line + 1
              dump := match W.dump with
                | some n => if W.line + 1 < n.toNat then some n else none
                | none => none }
          else W

/-- 41_memory_device_ops.md R173, R175: an MWRITE that runs to its end is one transaction of four transfers, and responds
`OK` with no value. The replies to the command and to the bulk-out may carry any bytes: that they are discarded is the model's
reading (log 9; 20_memory.md R71 and R74 give them none). -/
def Obligations.MwriteIsOneTransaction : Prop :=
  ∀ (s : State) (V : View) (v : ViewId) (sa : StartAddr) (d : List Byte) (x y z c0 c1 c2 : Byte)
    (u1 u2 : List Byte) (rest : List Reply),
    s.accepting = true → s.requesters = [] → s.findView v = some V → fitsView V.aw d = true →
    rangeOk V.aw sa d.length = true → x.getLsbD 0 = false →
    s.env = .oracle ([.ok [x, y, z], .ok u1, .ok u2, .ok [c0, c1, c2]] ++ rest) →
    ∃ s1 t, exec (.mwrite v sa d) s = .next s1 ∧ s1.after 5 = .next t
      ∧ t.wire = s.wire ++
        [(.ctl cwGetStatus, .ok [x, y, z]),
          (.ctl (cwI2cWrite V.devAddr V.wrStart V.wrStop (BitVec.ofNat 16 (V.aw.bytes + d.length))), .ok u1),
          (.bout s.ep.bulkOut (bigEndian V.aw.bytes sa.toNat ++ d), .ok u2),
          (.int s.ep.interruptIn 3, .ok [c0, c1, c2])]
      ∧ t.env = .oracle rest ∧ t.seq = .idle ∧ t.err = .ok ∧ t.hold = none ∧ t.views = s.views
      ∧ t.responses = s.responses ++ [⟨.engToView v, ⟨.ok, .none⟩⟩, ⟨.mem v, ⟨.ok, .none⟩⟩]

/-- 41_memory_device_ops.md R174, R175: an MREAD that runs to its end is a RESET and exactly two transactions, ten transfers
in this order, and responds `OK` with the bytes of the one bulk-in. The replies to the two commands and to the bulk-out may
carry any bytes: that they are discarded is the model's reading (log 9; 20_memory.md R71 and R74 give them none). -/
def Obligations.MreadIsResetAndTwoTransactions : Prop :=
  ∀ (s : State) (V : View) (v : ViewId) (sa : StartAddr) (n : Half) (x y z c0 c1 c2 x' y' z' d0 d1 d2 : Byte)
    (u1 u2 u3 data : List Byte) (rest : List Reply),
    s.accepting = true → s.requesters = [] → s.findView v = some V → rangeOk V.aw sa n.toNat = true →
    x.getLsbD 0 = false → x'.getLsbD 0 = false → data.length = n.toNat →
    s.env = .oracle ([.ok [], .ok [], .ok [x, y, z], .ok u1, .ok u2, .ok [c0, c1, c2], .ok [x', y', z'], .ok u3,
      .ok data, .ok [d0, d1, d2]] ++ rest) →
    ∃ s1 t, exec (.mread v sa n) s = .next s1 ∧ s1.after 13 = .next t
      ∧ t.wire = s.wire ++
        [(.ctl cwResetRd, .ok []), (.ctl cwResetWr, .ok []), (.ctl cwGetStatus, .ok [x, y, z]),
          (.ctl (cwI2cWrite V.devAddr V.wrStart V.wrStop (BitVec.ofNat 16 V.aw.bytes)), .ok u1),
          (.bout s.ep.bulkOut (bigEndian V.aw.bytes sa.toNat), .ok u2),
          (.int s.ep.interruptIn 3, .ok [c0, c1, c2]), (.ctl cwGetStatus, .ok [x', y', z']),
          (.ctl (cwI2cRead V.devAddr V.rdStart V.rdStop n), .ok u3),
          (.bin s.ep.bulkIn n.toNat, .ok data), (.int s.ep.interruptIn 3, .ok [d0, d1, d2])]
      ∧ t.env = .oracle rest ∧ t.seq = .idle ∧ t.err = .ok ∧ t.hold = none ∧ t.views = s.views
      ∧ t.responses = s.responses ++ [⟨.engToView v, ⟨.ok, .none⟩⟩, ⟨.engToView v, ⟨.ok, .none⟩⟩,
          ⟨.engToView v, ⟨.ok, .bytes data⟩⟩, ⟨.mem v, ⟨.ok, .bytes data⟩⟩]

/-! Whole operations against the spec's pseudocode -/

/-- 40_engine_ops.md R142, R144: RESET and STATUS accepted from the host run their pseudocode, whatever the environment
answers. How wrong byte counts and timeouts stand on the wire trace, and that a wait takes no reply, is the model's choice, the
same on both sides (logs 3, 29, 30). -/
def Obligations.ResetAndStatusRunTheirPseudocode : Prop :=
  ∀ s : State, s.accepting = true → s.requesters = [] → s.outstanding = none →
    (∃ s1 t, exec .reset s = .next s1 ∧ s1.after 2 = .next t
      ∧ s.showsRun (runReset s.timeout s.env) t)
    ∧ ∃ s1 t, exec .status s = .next s1 ∧ s1.after 1 = .next t
      ∧ s.showsRun (runStatus s.timeout s.env) t

/-- 40_engine_ops.md R148: a WRITE accepted from the host runs its pseudocode, whatever the environment answers. That unasked
bytes are discarded (log 9), how wrong byte counts and timeouts stand on the wire trace, and that a wait takes no reply, is the
model's choice, the same on both sides (logs 3, 29, 30). -/
def Obligations.WriteRunsItsPseudocode : Prop :=
  ∀ (s : State) (a : DevAddr) (p : List Byte) (st sp : Bool), s.accepting = true → s.requesters = [] →
    s.outstanding = none → p.length ≤ Config.lenMax →
    ∃ s1 t, exec (.write a p st sp) s = .next s1 ∧ s1.after 4 = .next t
      ∧ s.showsRun (runWrite s.timeout s.ep a p st sp s.env) t

/-- 40_engine_ops.md R150: a READ accepted from the host runs its pseudocode, whatever the environment answers. That unasked
bytes are discarded (log 9), how wrong byte counts and timeouts stand on the wire trace, and that a wait takes no reply, is the
model's choice, the same on both sides (logs 3, 29, 30). -/
def Obligations.ReadRunsItsPseudocode : Prop :=
  ∀ (s : State) (a : DevAddr) (n : Half) (st sp : Bool), s.accepting = true → s.requesters = [] →
    s.outstanding = none →
    ∃ s1 t, exec (.read a n st sp) s = .next s1 ∧ s1.after 4 = .next t
      ∧ s.showsRun (runRead s.timeout s.ep a n st sp s.env) t

/-- 40_engine_ops.md R151: what a READ that ends with `OK` delivers is the bytes of its one bulk-in, exactly `length` of
them, whatever the environment answers. -/
def Obligations.ReadReturnsExactlyLengthBytes : Prop :=
  ∀ (s s1 t : State) (a : DevAddr) (n : Half) (st sp : Bool) (v : Value), s.accepting = true → s.requesters = [] →
    s.outstanding = none → exec (.read a n st sp) s = .next s1 → s1.after 4 = .next t →
    t.responses = s.responses ++ [⟨.eng, ⟨.ok, v⟩⟩] →
    ∃ b w, v = .bytes b ∧ b.length = n.toNat ∧ t.wire = s.wire ++ w ∧ (Transfer.bin s.ep.bulkIn n.toNat, Reply.ok b) ∈ w

/-- 40_engine_ops.md R143: a second RESET sends the same two commands again, and the block's state after it is its state
after one. -/
def Obligations.ResetIsIdempotent : Prop :=
  ∀ (s : State) (rs : List Reply), s.accepting = true → s.requesters = [] →
    s.env = .oracle ([.ok [], .ok [], .ok [], .ok []] ++ rs) →
    ∃ s1 t1 s2 t2, exec .reset s = .next s1 ∧ s1.after 2 = .next t1
      ∧ exec .reset t1 = .next s2 ∧ s2.after 2 = .next t2
      ∧ t1.wire = s.wire ++ [(.ctl cwResetRd, .ok []), (.ctl cwResetWr, .ok [])] ∧ t1.seq = .idle ∧ t1.err = .ok
      ∧ t2 = { t1 with
          wire := t1.wire ++ [(.ctl cwResetRd, .ok []), (.ctl cwResetWr, .ok [])]
          env := .oracle rs
          responses := t1.responses ++ [⟨.eng, ⟨.ok, .none⟩⟩] }

/-! Frames -/

/-- What a request changes, whatever its operands and the state: `TD`, `PBUF` (WRITE alone), `SEQ`, the hold, the views
(DUMP alone), `ERR` and the responses (the memory-device operations alone). Nothing is sent: the channels, the environment
and every byte of its memory, and all other registers, are as before. -/
def Obligations.RequestsFrame : Prop :=
  ∀ (i : Instr) (s t : State),
    (∃ v sa d, i = .mwrite v sa d) ∨ (∃ v sa n, i = .mread v sa n) ∨ (∃ v k, i = .dump v k) ∨ i.isEngineRequest = true →
    exec i s = .next t →
    t.rbuf = s.rbuf ∧ t.sts = s.sts ∧ t.cmp = s.cmp ∧ t.failed = s.failed ∧ t.ep = s.ep ∧ t.bound = s.bound
      ∧ t.requesters = s.requesters ∧ t.outstanding = s.outstanding ∧ t.wire = s.wire ∧ t.timeout = s.timeout
      ∧ t.env = s.env ∧ t.grants = s.grants ∧ (∀ dev a, t.env.readByte dev a = s.env.readByte dev a)
      ∧ (t.pbuf = s.pbuf ∨ ∃ a p st sp, i = .write a p st sp)
      ∧ (t.views = s.views ∨ ∃ v k, i = .dump v k)
      ∧ (i.isEngineRequest = true → t.err = s.err ∧ t.responses = s.responses)
      ∧ (i.isEngineRequest = false → t.td = s.td ∧ t.seq = s.seq)

/-- What a bridge command changes: `SEQ`, `STS` (Get status alone), `ERR`, `FAILED`, the hold, the views' DUMP state, the
responses, the wire trace, the outstanding transfer, the environment. All other registers are as before, and no byte of
any device's memory changes. What a command makes the adapter do is the environment's affair (42_bridge_commands.md R190); the
last clause rests on the definition of `ENV_IDEAL`, where a control transfer stores nothing (20_memory.md R87), and a list of
replies has no device memory to change (log 2). -/
def Obligations.BridgeCommandsFrame : Prop :=
  ∀ (i : Instr) (s t : State),
    i = .resetRd ∨ i = .resetWr ∨ i = .getStatus ∨ (∃ a st sp n, i = .i2cWrite a st sp n)
      ∨ (∃ a st sp n, i = .i2cRead a st sp n) →
    exec i s = .next t →
    t.td = s.td ∧ t.pbuf = s.pbuf ∧ t.rbuf = s.rbuf ∧ t.cmp = s.cmp ∧ t.ep = s.ep ∧ t.bound = s.bound
      ∧ t.requesters = s.requesters ∧ t.timeout = s.timeout ∧ t.grants = s.grants
      ∧ (t.sts = s.sts ∨ i = .getStatus)
      ∧ (∀ dev a, t.env.readByte dev a = s.env.readByte dev a)

/-- 20_memory.md R87, under `ENV_IDEAL`: the bulk-out of a WRITE to a device stores the payload after its address bytes at
the address they give, and changes no other byte of that device and none of any other; a payload shorter than the address
stores nothing. That bytes of the run at or above the size of the device's space change nothing is the model's choice (log 13). -/
def Obligations.IdealBulkOutStores : Prop :=
  ∀ (s t : State) (x : IdealAdapter) (d : Device) (c : SlotEntry), s.env = .ideal x → s.seq = .payloadTransfer →
    s.td.op = .write → x.slot = some c → c.isRead = false → findDevice x.devices c.addr = some d →
    Memory.wf d.mem = true → step s = .next t →
    (d.width.bytes ≤ s.pbuf.length →
      ∀ i, i < s.pbuf.length - d.width.bytes →
        numberOf (s.pbuf.take d.width.bytes) + i < 256 ^ d.width.bytes →
        t.env.readByte c.addr (numberOf (s.pbuf.take d.width.bytes) + i)
          = some (s.pbuf.getD (d.width.bytes + i) 0#8))
    ∧ (∀ dev a,
        (dev = c.addr → s.pbuf.length < d.width.bytes ∨ a < numberOf (s.pbuf.take d.width.bytes)
          ∨ numberOf (s.pbuf.take d.width.bytes) + (s.pbuf.length - d.width.bytes) ≤ a ∨ 256 ^ d.width.bytes ≤ a) →
        t.env.readByte dev a = s.env.readByte dev a)

/-- 20_memory.md R87: `ENV_IDEAL` answers a read of the bytes just stored with those bytes: the write transaction of a
payload `BE_w(a) ++ data`, the address phase `BE_w(a)`, then a bulk-in of as many bytes. -/
def Obligations.IdealReadsBackWhatWasStored : Prop :=
  ∀ (x : IdealAdapter) (d : Device) (a : Nat) (data : List Byte) (c : SlotEntry), c.isRead = false →
    findDevice x.devices c.addr = some d → Memory.wf d.mem = true → a < 256 ^ d.width.bytes →
    a + data.length ≤ 256 ^ d.width.bytes →
    let y := ({ x with slot := some c }.bulkOut (bigEndian d.width.bytes a ++ data))
    let z := ({ y with slot := some c }.bulkOut (bigEndian d.width.bytes a))
    ({ z with slot := some { c with isRead := true } }.bulkIn data.length).1 = data

/-! Invariants and whole-machine rules -/

/-- 10_state.md R50, 70_reset_and_hazards.md R243, R244: the values the spec gives for block reset, and the wait that follows it
where nobody has a request, whatever the outcome. That the environment stays as it was is the model's choice (log 14): what it
answers after a block reset is open (log 30). -/
def Obligations.ResetIsConstruction : Prop :=
  (∀ (s : State) (i bi bo : Handle),
    let t := s.construct (.found i bi bo)
    t.ep = ⟨some i, some bi, some bo⟩ ∧ t.bound = true ∧ t.seq = .idle ∧ t.err = .ok ∧ t.failed = false ∧ t.views = []
      ∧ t.hold = none ∧ t.outstanding = none ∧ t.wire = [] ∧ t.env = s.env ∧ (s.requesters = [] → step t = .next t))
  ∧ (∀ (s : State) (d : Discovery), (∀ i bi bo, d ≠ .found i bi bo) →
    let t := s.construct d
    t.bound = false ∧ t.seq = .unbound ∧ t.failed = false ∧ t.views = [] ∧ t.hold = none ∧ t.outstanding = none
      ∧ t.wire = [] ∧ t.env = s.env ∧ (s.requesters = [] → step t = .next t)
      ∧ (d = .noDevice → t.err = .deviceNotFound) ∧ (d = .noConfiguration → t.err = .configurationMissing)
      ∧ (d = .noEndpoint → t.err = .endpointMissing))
  ∧ State.reset.seq = .idle ∧ State.reset.bound = true ∧ State.reset.err = .ok ∧ State.reset.failed = false
  ∧ State.reset.views = [] ∧ State.reset.hold = none ∧ State.reset.wire = [] ∧ State.reset.outstanding = none

/-- 60_exceptions.md R208, R211: an unbound or failed machine never changes by its own steps: no request is ever accepted,
no transfer issued. -/
def Obligations.UnboundAndFailedAcceptNothing : Prop :=
  ∀ (s t : State) (k : Nat), s.seq = .unbound ∨ s.seq = .failed → s.after k = .next t → t = s

/-- The register invariants hold right after reset, and after any construction (10_state.md R29, R30, R31). The rules leave the
transient registers and the handles of a failed construction unspecified (R50); that `BOUND` and `EP` agree after one rests on the
null handles the model chose (log 6), and that `TD.len` and `PBUF` agree on the `TD.op = RESET` it chose (log 5). -/
def Obligations.ResetMeetsTheInvariants : Prop :=
  State.reset.Inv ∧ State.reset.WireInv ∧ State.reset.env.wf = true
  ∧ ∀ (s : State) (d : Discovery), (s.construct d).Inv ∧ (s.construct d).WireInv

/-- Every step keeps the register invariants the rules state (10_state.md R21, R29, R30, R47; 20_memory.md R79; 40_engine_ops.md
R140, R151). -/
def Obligations.EveryStepKeepsTheRegisterInvariants : Prop :=
  ∀ s t : State, s.Inv → step s = .next t → t.Inv

/-- Every step keeps the discipline of the wire trace: nothing after a failure (40_engine_ops.md R154), a not-busy status
check right before every transaction command (R147), the bulk transfer of the command's length after it (70_reset_and_hazards.md
R250), the completion read after that (R149). -/
def Obligations.EveryStepKeepsTheWireDiscipline : Prop :=
  ∀ s t : State, s.Inv → s.WireInv → step s = .next t → t.WireInv

/-- Every step keeps the canonical form of every device memory of the environment. -/
def Obligations.EveryStepKeepsDeviceMemoryCanonical : Prop :=
  ∀ s t : State, s.env.wf = true → step s = .next t → t.env.wf = true

/-- In a state that meets the invariants no step faults, and with nothing waiting at the ports every step answers a next
state. The model's one fault is a phase and operation in no row of 40_engine_ops.md R140 (log 17), and a transfer that fails is
a next state in `FAILED`, as 10_state.md R29 and 60_exceptions.md R211 describe it, and not the fault that 00_scope.md R12
suggests (log 7). Where somebody waits, a step may refuse what is no request (30_encoding.md R120, R127). -/
def Obligations.InvariantStatesNeverFault : Prop :=
  ∀ s : State, s.Inv → (∀ f, step s ≠ .fault f) ∧ (s.requesters = [] → ∃ t, step s = .next t)

/-- 60_exceptions.md R207: with `XFER_TIMEOUT` at its default, no step ever produces code 7. -/
def Obligations.NoTimeoutByDefault : Prop :=
  ∀ s t : State, s.timeout = none → s.err ≠ .timeout → step s = .next t → t.timeout = none ∧ t.err ≠ .timeout

/-- 10_state.md R47: no waiting request is dropped: a step takes at most the head of one requester's queue, and only in a
state that accepts; while a view holds the engine nothing is taken. -/
def Obligations.WaitingRequestsAreNotDropped : Prop :=
  ∀ s t : State, step s = .next t →
    t.requesters = s.requesters
    ∨ s.accepting = true ∧ ∃ k p, s.waitingAt k = some p ∧ t.requesters = s.requesters.modify k List.tail

/-- 20_memory.md R79: a step adds at most one transfer to the wire trace, the one of the phase it began in, and takes none
away; responses are only ever added. -/
def Obligations.WireTraceOnlyGrows : Prop :=
  ∀ s t : State, step s = .next t →
    (t.wire = s.wire ∨ ∃ x r, s.phaseTransfer = some x ∧ t.wire = s.wire ++ [(x, r)])
    ∧ ∃ rs, t.responses = s.responses ++ rs

/-- 10_state.md R30: `EP` is written once, at construction: no step changes it, or `BOUND`, or `XFER_TIMEOUT`, or a view's
configuration registers (R40). -/
def Obligations.ConfigurationIsNeverWritten : Prop :=
  ∀ s t : State, step s = .next t →
    t.ep = s.ep ∧ t.bound = s.bound ∧ t.timeout = s.timeout
    ∧ t.views.map (fun V => { V with line := 0, dump := none }) = s.views.map fun V => { V with line := 0, dump := none }

/-- 10_state.md R40, R41: creating a view adds it and changes nothing else, and is refused outside the legal values;
destroying one is refused while the engine runs an operation of it, and removes it at any other time, whatever other view
holds the engine. The model's choices: the new view's `V.LINE` is 0 and it has no DUMP in progress, where R42 gives `V.LINE` no
value (log 5); destruction is refused exactly while the view holds the engine (log 28); the first clause asks that the name is new
and that an engine is bound, because creation is refused otherwise (log 10). -/
def Obligations.ViewsComeAndGo : Prop :=
  (∀ (s : State) (id dev aw : Nat) (w : AddrWidth) (p : Policies), s.bound = true → s.findView id = none → dev < 128 →
    aw = w.bytes → s.createView id dev aw p
      = .next { s with views := s.views ++ [⟨id, .theEngine, BitVec.ofNat 7 dev, w, p.wrStart, p.wrStop, p.rdStart,
          p.rdStop, 0, none⟩] })
  ∧ (∀ (s : State) (id dev aw : Nat) (p : Policies), aw = 0 ∨ 4 < aw ∨ 127 < dev →
    s.createView id dev aw p = .refused .notAView)
  ∧ Policies.default = ⟨true, false, true, true⟩
  ∧ (∀ (s : State) (V : View) (id : Nat) (h : Hold), s.findView id = some V → s.hold = some h → h.view = id →
    s.destroyView id = .refused (.viewBusy id))
  ∧ ∀ (s : State) (V : View) (id : Nat), s.findView id = some V → (∀ h, s.hold = some h → h.view ≠ id) →
    s.destroyView id = .next { s with views := s.views.filter fun W => W.id ≠ id }
end

