-- ==== Sys2Proof/Laws/Decode.lean ====
section
/-! SUPPORT. What a field of a word reads as, bit by bit; the well-formedness checks as inequalities. -/

namespace Sys2Proof

/-- Bit `i` of a word that holds one field at bit `lo`. -/
theorem getLsbD_field (N lo i : Nat) {n : Nat} (v : BitVec n) :
    (field N lo v).getLsbD i = (decide (i < N) && decide (lo ≤ i) && v.getLsbD (i - lo)) := by
  simp only [field, BitVec.getLsbD_shiftLeft, BitVec.getLsbD_setWidth]
  by_cases h1 : i < N <;> by_cases h2 : lo ≤ i
  · simp [h1, h2, Nat.not_lt.2 h2, Nat.lt_of_le_of_lt (Nat.sub_le i lo) h1]
  · simp [h1, h2, Nat.lt_of_not_le h2]
  · simp [h1]
  · simp [h1]

/-- The same, for the indexed form. -/
theorem getElem_field (N lo i : Nat) {n : Nat} (v : BitVec n) (h : i < N) :
    (field N lo v)[i] = (decide (lo ≤ i) && v.getLsbD (i - lo)) := by
  rw [← BitVec.getLsbD_eq_getElem, getLsbD_field]
  simp [h]

/-- The `dir` bit and its direction (30_encoding.md R102). -/
@[simp] theorem Direction.ofBit_bit (d : Direction) : Direction.ofBit d.bit = d := by cases d <;> rfl

/-- A WRITE is well-formed when its payload has at most 65535 bytes (30_encoding.md R127). -/
theorem wellFormed_write_iff (a : DevAddr) (p : List Byte) (st sp : Bool) :
    (Instr.write a p st sp).wellFormed = true ↔ p.length ≤ 65535 := by
  simp [Instr.wellFormed]

/-- The same check of an MWRITE, whatever the view. -/
theorem wellFormed_mwrite_iff (v : ViewId) (sa : StartAddr) (d : List Byte) :
    (Instr.mwrite v sa d).wellFormed = true ↔ d.length ≤ 65535 := by
  simp [Instr.wellFormed]

/-- An MWRITE fits a view when prefix and data together have at most 65535 bytes (30_encoding.md R127). -/
theorem fitsView_iff (w : AddrWidth) (d : List Byte) : fitsView w d = true ↔ w.bytes + d.length ≤ 65535 := by
  simp [fitsView]

/-- The fields of an `RQ` word read as they were written (30_encoding.md R114). -/
theorem rqWord_fields (op : BitVec 4) (a : DevAddr) (stop start : Bool) (n : Half) :
    (rqWord op a stop start n).extractLsb' 28 4 = op ∧ (rqWord op a stop start n).extractLsb' 18 7 = a
      ∧ (rqWord op a stop start n).getLsbD 17 = stop ∧ (rqWord op a stop start n).getLsbD 16 = start
      ∧ (rqWord op a stop start n).extractLsb' 0 16 = n ∧ (rqWord op a stop start n).extractLsb' 25 3 = 0#3 := by
  refine ⟨?_, ?_, by simp [rqWord, getElem_field], by simp [rqWord, getElem_field], ?_, ?_⟩
  all_goals
    apply BitVec.eq_of_getLsbD_eq
    intro j hj
    interval_cases j <;> simp [rqWord, getElem_field]

/-- The fields of an `MQ` word read as they were written (30_encoding.md R115). -/
theorem mqWord_fields (op : BitVec 4) (sa : StartAddr) (n : Half) :
    (mqWord op sa n).extractLsb' 48 4 = op ∧ (mqWord op sa n).extractLsb' 16 32 = sa
      ∧ (mqWord op sa n).extractLsb' 0 16 = n := by
  refine ⟨?_, ?_, ?_⟩
  all_goals
    apply BitVec.eq_of_getLsbD_eq
    intro j hj
    interval_cases j <;> simp [mqWord, getElem_field]

/-- The fields of a control word read as they were written (30_encoding.md R101). -/
theorem ofBits_bits (c : ControlWord) : ControlWord.ofBits c.bits = c := by
  obtain ⟨d, code, v, i, n⟩ := c
  simp only [ControlWord.ofBits, ControlWord.bits, ControlWord.mk.injEq]
  refine ⟨by simp [getElem_field], ?_, ?_, ?_, ?_⟩
  all_goals
    apply BitVec.eq_of_getLsbD_eq
    intro j hj
    interval_cases j <;> simp [getElem_field]

end Sys2Proof
end

