-- ==== Sys2Proof/Laws/Memory.lean ====
section
/-! SUPPORT. The device memory of `ENV_IDEAL`: a read after a write, and the canonical form, which every memory operation
keeps. -/

namespace Sys2Proof.Machine

@[simp] theorem Memory.read_nil (a : Nat) : Memory.read [] a = Config.unwrittenByte := rfl

@[simp] theorem Memory.wf_nil : Memory.wf [] = true := rfl

theorem Memory.wf_cons (c : Host.Cell) (m : Memory) :
    Memory.wf (c :: m) = true ↔ c.2 ≠ Config.unwrittenByte ∧ (∀ d ∈ m, c.1 < d.1) ∧ Memory.wf m = true := by
  simp [Memory.wf, and_assoc]

/-- An address below every listed one reads as unwritten. -/
theorem Memory.read_of_lt (m : Memory) (a : Nat) (h : ∀ d ∈ m, a < d.1) : Memory.read m a = Config.unwrittenByte := by
  induction m with
  | nil => rfl
  | cons c m ih =>
    have h1 : a < c.1 := h c (by simp)
    simp only [Memory.read]
    rw [if_neg (by omega), ih fun d hd => h d (by simp [hd])]

/-- What a write lists: the cells it had, and its own. -/
theorem Memory.mem_write (m : Memory) (a : Nat) (b : Byte) (d : Host.Cell) (h : d ∈ Memory.write m a b) :
    d ∈ m ∨ d = (a, b) := by
  induction m with
  | nil =>
    simp only [Memory.write] at h
    split at h
    · simp at h
    · exact .inr (by simpa using h)
  | cons c m ih =>
    simp only [Memory.write] at h
    split at h
    · split at h
      · exact .inl h
      · simp only [List.mem_cons] at h ⊢
        tauto
    · split at h
      · split at h
        · exact .inl (by simp [h])
        · simp only [List.mem_cons] at h ⊢
          tauto
      · simp only [List.mem_cons] at h ⊢
        rcases h with h | h
        · exact .inl (.inl h)
        · exact (ih h).imp .inr id

/-- A write keeps the canonical form. -/
theorem Memory.write_wf (m : Memory) (a : Nat) (b : Byte) (h : Memory.wf m = true) :
    Memory.wf (Memory.write m a b) = true := by
  induction m with
  | nil =>
    simp only [Memory.write]
    split <;> simp_all [Memory.wf]
  | cons c m ih =>
    obtain ⟨hc, hlt, hm⟩ := (Memory.wf_cons c m).1 h
    simp only [Memory.write]
    split
    · rename_i hac
      split
      · exact h
      · rename_i hb
        refine (Memory.wf_cons _ _).2 ⟨hb, ?_, h⟩
        intro d hd
        rcases List.mem_cons.1 hd with rfl | hd
        · exact hac
        · exact hac.trans (hlt d hd)
    · split
      · rename_i hac
        split
        · exact hm
        · rename_i hb
          exact (Memory.wf_cons _ _).2 ⟨hb, fun d hd => by simpa [hac] using hlt d hd, hm⟩
      · refine (Memory.wf_cons _ _).2 ⟨hc, ?_, ih hm⟩
        intro d hd
        rcases Memory.mem_write m a b d hd with hd | rfl
        · exact hlt d hd
        · simp only
          omega

/-- A read after a write to the same address gives the byte written. -/
theorem Memory.read_write_same (m : Memory) (a : Nat) (b : Byte) (h : Memory.wf m = true) :
    Memory.read (Memory.write m a b) a = b := by
  induction m with
  | nil =>
    simp only [Memory.write]
    split <;> simp_all [Memory.read]
  | cons c m ih =>
    obtain ⟨-, hlt, hm⟩ := (Memory.wf_cons c m).1 h
    simp only [Memory.write]
    split
    · rename_i hac
      split
      · rename_i hb
        rw [Memory.read_of_lt _ _ (fun d hd => by
          rcases List.mem_cons.1 hd with rfl | hd
          · exact hac
          · exact hac.trans (hlt d hd)), hb]
      · simp [Memory.read]
    · split
      · rename_i hac
        split
        · rename_i hb
          rw [Memory.read_of_lt _ _ (fun d hd => hac ▸ hlt d hd), hb]
        · simp [Memory.read]
      · simp only [Memory.read]
        rw [if_neg (by omega), ih hm]

/-- A write leaves every other address alone. -/
theorem Memory.read_write_other (m : Memory) (a x : Nat) (b : Byte) (hx : x ≠ a) :
    Memory.read (Memory.write m a b) x = Memory.read m x := by
  induction m with
  | nil =>
    simp only [Memory.write]
    split
    · rfl
    · simp [Memory.read, Ne.symm hx]
  | cons c m ih =>
    simp only [Memory.write]
    split
    · split
      · rfl
      · simp [Memory.read, Ne.symm hx]
    · split
      · rename_i hac
        split <;> simp [Memory.read, ← hac, Ne.symm hx]
      · simp only [Memory.read, ih]

/-- Storing a run keeps the canonical form. -/
theorem Memory.writeRun_wf (limit : Nat) (m : Memory) (a : Nat) (bs : List Byte) (h : Memory.wf m = true) :
    Memory.wf (Memory.writeRun limit m a bs) = true := by
  induction bs generalizing m a with
  | nil => exact h
  | cons b bs ih =>
    simp only [Memory.writeRun]
    apply ih
    split
    · exact Memory.write_wf m a b h
    · exact h

/-- Storing a run leaves every address outside it alone. -/
theorem Memory.read_writeRun_other (limit : Nat) (m : Memory) (a x : Nat) (bs : List Byte)
    (hx : x < a ∨ a + bs.length ≤ x) : Memory.read (Memory.writeRun limit m a bs) x = Memory.read m x := by
  induction bs generalizing m a with
  | nil => rfl
  | cons b bs ih =>
    simp only [List.length_cons] at hx
    simp only [Memory.writeRun]
    rw [ih _ _ (by omega)]
    split
    · exact Memory.read_write_other m a x b (by omega)
    · rfl

/-- Storing a run leaves every address at or above the limit alone. -/
theorem Memory.read_writeRun_beyond (limit : Nat) (m : Memory) (a x : Nat) (bs : List Byte) (hx : limit ≤ x) :
    Memory.read (Memory.writeRun limit m a bs) x = Memory.read m x := by
  induction bs generalizing m a with
  | nil => rfl
  | cons b bs ih =>
    simp only [Memory.writeRun]
    rw [ih]
    split
    · exact Memory.read_write_other m a x b (by omega)
    · rfl

/-- Below the limit, a run just stored reads back. -/
theorem Memory.read_writeRun_same (limit : Nat) (m : Memory) (a : Nat) (bs : List Byte) (h : Memory.wf m = true) (i : Nat)
    (hi : i < bs.length) (hl : a + i < limit) :
    Memory.read (Memory.writeRun limit m a bs) (a + i) = bs.getD i 0#8 := by
  induction bs generalizing m a i with
  | nil => simp at hi
  | cons b bs ih =>
    simp only [Memory.writeRun]
    cases i with
    | zero =>
      rw [Memory.read_writeRun_other _ _ _ _ _ (by omega), if_pos (by omega)]
      simpa using Memory.read_write_same m a b h
    | succ i =>
      have hw : Memory.wf (if a < limit then Memory.write m a b else m) = true := by
        split
        · exact Memory.write_wf m a b h
        · exact h
      rw [show a + (i + 1) = a + 1 + i by omega, ih _ _ hw i (by simpa using hi) (by omega)]
      simp

theorem mem_putDevice (ds : List Device) (d x : Device) (h : x ∈ putDevice ds d) : x ∈ ds ∨ x = d := by
  simp only [putDevice, List.mem_map] at h
  obtain ⟨e, he, rfl⟩ := h
  split
  · exact .inr rfl
  · exact .inl he

theorem putDevice_wf (ds : List Device) (d : Device) (h : ∀ e ∈ ds, Memory.wf e.mem = true) (hd : Memory.wf d.mem = true) :
    ∀ e ∈ putDevice ds d, Memory.wf e.mem = true := by
  intro e he
  rcases mem_putDevice ds d e he with he | rfl
  · exact h e he
  · exact hd

/-- A device put in place of one that exists is found at its address. -/
theorem findDevice_putDevice_same (ds : List Device) (d e : Device) (h : findDevice ds e.addr = some d) :
    findDevice (putDevice ds e) e.addr = some e := by
  unfold findDevice putDevice at *
  induction ds with
  | nil => simp at h
  | cons x ds ih =>
    simp only [List.map_cons, List.find?_cons] at h ⊢
    by_cases hx : x.addr = e.addr
    · simp [hx]
    · simp only [hx, decide_false, if_false] at h ⊢
      exact ih h

/-- Putting a device in place leaves every other address alone. -/
theorem findDevice_putDevice_other (ds : List Device) (e : Device) (a : DevAddr) (h : a ≠ e.addr) :
    findDevice (putDevice ds e) a = findDevice ds a := by
  unfold findDevice putDevice
  induction ds with
  | nil => rfl
  | cons x ds ih =>
    simp only [List.map_cons, List.find?_cons]
    by_cases hx : x.addr = e.addr
    · simp [hx, Ne.symm h, ih]
    · simp [hx, ih]

theorem findDevice_mem (ds : List Device) (a : DevAddr) (d : Device) (h : findDevice ds a = some d) : d ∈ ds :=
  List.mem_of_find?_eq_some h

theorem Device.store_wf (d : Device) (p : List Byte) (h : Memory.wf d.mem = true) : Memory.wf (d.store p).mem = true := by
  simp only [Device.store]
  split
  · exact Memory.writeRun_wf _ _ _ _ h
  · exact h

/-- `ENV_IDEAL`'s answer to any transfer keeps every device memory canonical. -/
theorem IdealAdapter.answer_wf (a : IdealAdapter) (t : Transfer) (x : Reply × IdealAdapter)
    (h : ∀ d ∈ a.devices, Memory.wf d.mem = true) (hx : a.answer t = some x) :
    ∀ d ∈ x.2.devices, Memory.wf d.mem = true := by
  cases t with
  | ctl c =>
    simp only [IdealAdapter.answer, IdealAdapter.control] at hx
    split at hx <;> simp at hx <;> subst hx <;> exact h
  | bout ep p =>
    simp only [IdealAdapter.answer, Option.some.injEq] at hx
    subst hx
    simp only [IdealAdapter.bulkOut]
    split
    · split
      · exact h
      · split
        · rename_i d hd
          exact putDevice_wf _ _ h (Device.store_wf d p (h d (findDevice_mem _ _ _ hd)))
        · exact h
    · exact h
  | bin ep n =>
    simp only [IdealAdapter.answer, Option.some.injEq] at hx
    subst hx
    simp only [IdealAdapter.bulkIn]
    split
    · split
      · split
        · rename_i d hd
          exact putDevice_wf _ _ h (h d (findDevice_mem _ _ _ hd))
        · exact h
      · exact h
    · exact h
  | int ep n =>
    simp only [IdealAdapter.answer, Option.some.injEq] at hx
    subst hx
    simp only [IdealAdapter.completion]
    split <;> exact h

/-- An environment's answer keeps its memories canonical. -/
theorem Env.answer_wf (e : Env) (t : Transfer) (x : Reply × Env) (h : e.wf = true) (hx : e.answer t = some x) :
    x.2.wf = true := by
  cases e with
  | oracle rs =>
    cases rs with
    | nil => simp [Env.answer] at hx
    | cons r rs =>
      simp only [Env.answer, Option.some.injEq] at hx
      subst hx
      rfl
  | ideal a =>
    simp only [Env.answer, Option.map_eq_some_iff] at hx
    obtain ⟨y, hy, rfl⟩ := hx
    simp only [Env.wf, List.all_eq_true] at h ⊢
    exact IdealAdapter.answer_wf a t y h hy

/-- What an oracle answers: the next reply of its list. -/
@[simp] theorem Env.answer_oracle_cons (r : Reply) (rs : List Reply) (t : Transfer) :
    (Env.oracle (r :: rs)).answer t = some (r, .oracle rs) := rfl

/-- An oracle with no reply left has not answered. -/
@[simp] theorem Env.answer_oracle_nil (t : Transfer) : (Env.oracle []).answer t = none := rfl

end Sys2Proof.Machine
end

