-- ==== Sys2Proof/Laws/State.lean ====
section
/-! SUPPORT. What each named update of the state does to each field, so that no proof unfolds a record update. -/

namespace Sys2Proof.Machine

/-! `State.goto` -/

@[simp] theorem State.goto_seq (s : State) (p : Phase) : (s.goto p).seq = p := rfl
@[simp] theorem State.goto_td (s : State) (p : Phase) : (s.goto p).td = s.td := rfl
@[simp] theorem State.goto_pbuf (s : State) (p : Phase) : (s.goto p).pbuf = s.pbuf := rfl
@[simp] theorem State.goto_rbuf (s : State) (p : Phase) : (s.goto p).rbuf = s.rbuf := rfl
@[simp] theorem State.goto_sts (s : State) (p : Phase) : (s.goto p).sts = s.sts := rfl
@[simp] theorem State.goto_cmp (s : State) (p : Phase) : (s.goto p).cmp = s.cmp := rfl
@[simp] theorem State.goto_err (s : State) (p : Phase) : (s.goto p).err = s.err := rfl
@[simp] theorem State.goto_failed (s : State) (p : Phase) : (s.goto p).failed = s.failed := rfl
@[simp] theorem State.goto_ep (s : State) (p : Phase) : (s.goto p).ep = s.ep := rfl
@[simp] theorem State.goto_bound (s : State) (p : Phase) : (s.goto p).bound = s.bound := rfl
@[simp] theorem State.goto_views (s : State) (p : Phase) : (s.goto p).views = s.views := rfl
@[simp] theorem State.goto_hold (s : State) (p : Phase) : (s.goto p).hold = s.hold := rfl
@[simp] theorem State.goto_requesters (s : State) (p : Phase) : (s.goto p).requesters = s.requesters := rfl
@[simp] theorem State.goto_responses (s : State) (p : Phase) : (s.goto p).responses = s.responses := rfl
@[simp] theorem State.goto_outstanding (s : State) (p : Phase) : (s.goto p).outstanding = s.outstanding := rfl
@[simp] theorem State.goto_wire (s : State) (p : Phase) : (s.goto p).wire = s.wire := rfl
@[simp] theorem State.goto_timeout (s : State) (p : Phase) : (s.goto p).timeout = s.timeout := rfl
@[simp] theorem State.goto_env (s : State) (p : Phase) : (s.goto p).env = s.env := rfl
@[simp] theorem State.goto_grants (s : State) (p : Phase) : (s.goto p).grants = s.grants := rfl

/-! `State.deliver` -/

@[simp] theorem State.deliver_seq (s : State) (p : Port) (r : Response) : (s.deliver p r).seq = s.seq := rfl
@[simp] theorem State.deliver_td (s : State) (p : Port) (r : Response) : (s.deliver p r).td = s.td := rfl
@[simp] theorem State.deliver_pbuf (s : State) (p : Port) (r : Response) : (s.deliver p r).pbuf = s.pbuf := rfl
@[simp] theorem State.deliver_rbuf (s : State) (p : Port) (r : Response) : (s.deliver p r).rbuf = s.rbuf := rfl
@[simp] theorem State.deliver_sts (s : State) (p : Port) (r : Response) : (s.deliver p r).sts = s.sts := rfl
@[simp] theorem State.deliver_cmp (s : State) (p : Port) (r : Response) : (s.deliver p r).cmp = s.cmp := rfl
@[simp] theorem State.deliver_err (s : State) (p : Port) (r : Response) : (s.deliver p r).err = s.err := rfl
@[simp] theorem State.deliver_failed (s : State) (p : Port) (r : Response) : (s.deliver p r).failed = s.failed := rfl
@[simp] theorem State.deliver_ep (s : State) (p : Port) (r : Response) : (s.deliver p r).ep = s.ep := rfl
@[simp] theorem State.deliver_bound (s : State) (p : Port) (r : Response) : (s.deliver p r).bound = s.bound := rfl
@[simp] theorem State.deliver_views (s : State) (p : Port) (r : Response) : (s.deliver p r).views = s.views := rfl
@[simp] theorem State.deliver_hold (s : State) (p : Port) (r : Response) : (s.deliver p r).hold = s.hold := rfl
@[simp] theorem State.deliver_requesters (s : State) (p : Port) (r : Response) : (s.deliver p r).requesters = s.requesters := rfl
@[simp] theorem State.deliver_responses (s : State) (p : Port) (r : Response) : (s.deliver p r).responses = s.responses ++ [⟨p, r⟩] := rfl
@[simp] theorem State.deliver_outstanding (s : State) (p : Port) (r : Response) : (s.deliver p r).outstanding = s.outstanding := rfl
@[simp] theorem State.deliver_wire (s : State) (p : Port) (r : Response) : (s.deliver p r).wire = s.wire := rfl
@[simp] theorem State.deliver_timeout (s : State) (p : Port) (r : Response) : (s.deliver p r).timeout = s.timeout := rfl
@[simp] theorem State.deliver_env (s : State) (p : Port) (r : Response) : (s.deliver p r).env = s.env := rfl
@[simp] theorem State.deliver_grants (s : State) (p : Port) (r : Response) : (s.deliver p r).grants = s.grants := rfl

/-! `State.issue` -/

@[simp] theorem State.issue_seq (s : State) (t : Transfer) : (s.issue t).seq = s.seq := rfl
@[simp] theorem State.issue_td (s : State) (t : Transfer) : (s.issue t).td = s.td := rfl
@[simp] theorem State.issue_pbuf (s : State) (t : Transfer) : (s.issue t).pbuf = s.pbuf := rfl
@[simp] theorem State.issue_rbuf (s : State) (t : Transfer) : (s.issue t).rbuf = s.rbuf := rfl
@[simp] theorem State.issue_sts (s : State) (t : Transfer) : (s.issue t).sts = s.sts := rfl
@[simp] theorem State.issue_cmp (s : State) (t : Transfer) : (s.issue t).cmp = s.cmp := rfl
@[simp] theorem State.issue_err (s : State) (t : Transfer) : (s.issue t).err = s.err := rfl
@[simp] theorem State.issue_failed (s : State) (t : Transfer) : (s.issue t).failed = s.failed := rfl
@[simp] theorem State.issue_ep (s : State) (t : Transfer) : (s.issue t).ep = s.ep := rfl
@[simp] theorem State.issue_bound (s : State) (t : Transfer) : (s.issue t).bound = s.bound := rfl
@[simp] theorem State.issue_views (s : State) (t : Transfer) : (s.issue t).views = s.views := rfl
@[simp] theorem State.issue_hold (s : State) (t : Transfer) : (s.issue t).hold = s.hold := rfl
@[simp] theorem State.issue_requesters (s : State) (t : Transfer) : (s.issue t).requesters = s.requesters := rfl
@[simp] theorem State.issue_responses (s : State) (t : Transfer) : (s.issue t).responses = s.responses := rfl
@[simp] theorem State.issue_outstanding (s : State) (t : Transfer) : (s.issue t).outstanding = some t := rfl
@[simp] theorem State.issue_wire (s : State) (t : Transfer) : (s.issue t).wire = s.wire := rfl
@[simp] theorem State.issue_timeout (s : State) (t : Transfer) : (s.issue t).timeout = s.timeout := rfl
@[simp] theorem State.issue_env (s : State) (t : Transfer) : (s.issue t).env = s.env := rfl
@[simp] theorem State.issue_grants (s : State) (t : Transfer) : (s.issue t).grants = s.grants := rfl

/-! `State.returned` -/

@[simp] theorem State.returned_seq (s : State) (t : Transfer) (r : Reply) (e : Env) : (s.returned t r e).seq = s.seq := rfl
@[simp] theorem State.returned_td (s : State) (t : Transfer) (r : Reply) (e : Env) : (s.returned t r e).td = s.td := rfl
@[simp] theorem State.returned_pbuf (s : State) (t : Transfer) (r : Reply) (e : Env) : (s.returned t r e).pbuf = s.pbuf := rfl
@[simp] theorem State.returned_rbuf (s : State) (t : Transfer) (r : Reply) (e : Env) : (s.returned t r e).rbuf = s.rbuf := rfl
@[simp] theorem State.returned_sts (s : State) (t : Transfer) (r : Reply) (e : Env) : (s.returned t r e).sts = s.sts := rfl
@[simp] theorem State.returned_cmp (s : State) (t : Transfer) (r : Reply) (e : Env) : (s.returned t r e).cmp = s.cmp := rfl
@[simp] theorem State.returned_err (s : State) (t : Transfer) (r : Reply) (e : Env) : (s.returned t r e).err = s.err := rfl
@[simp] theorem State.returned_failed (s : State) (t : Transfer) (r : Reply) (e : Env) : (s.returned t r e).failed = s.failed := rfl
@[simp] theorem State.returned_ep (s : State) (t : Transfer) (r : Reply) (e : Env) : (s.returned t r e).ep = s.ep := rfl
@[simp] theorem State.returned_bound (s : State) (t : Transfer) (r : Reply) (e : Env) : (s.returned t r e).bound = s.bound := rfl
@[simp] theorem State.returned_views (s : State) (t : Transfer) (r : Reply) (e : Env) : (s.returned t r e).views = s.views := rfl
@[simp] theorem State.returned_hold (s : State) (t : Transfer) (r : Reply) (e : Env) : (s.returned t r e).hold = s.hold := rfl
@[simp] theorem State.returned_requesters (s : State) (t : Transfer) (r : Reply) (e : Env) : (s.returned t r e).requesters = s.requesters := rfl
@[simp] theorem State.returned_responses (s : State) (t : Transfer) (r : Reply) (e : Env) : (s.returned t r e).responses = s.responses := rfl
@[simp] theorem State.returned_outstanding (s : State) (t : Transfer) (r : Reply) (e : Env) : (s.returned t r e).outstanding = none := rfl
@[simp] theorem State.returned_wire (s : State) (t : Transfer) (r : Reply) (e : Env) : (s.returned t r e).wire = s.wire ++ [(t, r)] := rfl
@[simp] theorem State.returned_timeout (s : State) (t : Transfer) (r : Reply) (e : Env) : (s.returned t r e).timeout = s.timeout := rfl
@[simp] theorem State.returned_env (s : State) (t : Transfer) (r : Reply) (e : Env) : (s.returned t r e).env = e := rfl
@[simp] theorem State.returned_grants (s : State) (t : Transfer) (r : Reply) (e : Env) : (s.returned t r e).grants = s.grants := rfl

/-! `State.updateView` -/

@[simp] theorem State.updateView_seq (s : State) (v : ViewId) (f : View → View) : (s.updateView v f).seq = s.seq := rfl
@[simp] theorem State.updateView_td (s : State) (v : ViewId) (f : View → View) : (s.updateView v f).td = s.td := rfl
@[simp] theorem State.updateView_pbuf (s : State) (v : ViewId) (f : View → View) : (s.updateView v f).pbuf = s.pbuf := rfl
@[simp] theorem State.updateView_rbuf (s : State) (v : ViewId) (f : View → View) : (s.updateView v f).rbuf = s.rbuf := rfl
@[simp] theorem State.updateView_sts (s : State) (v : ViewId) (f : View → View) : (s.updateView v f).sts = s.sts := rfl
@[simp] theorem State.updateView_cmp (s : State) (v : ViewId) (f : View → View) : (s.updateView v f).cmp = s.cmp := rfl
@[simp] theorem State.updateView_err (s : State) (v : ViewId) (f : View → View) : (s.updateView v f).err = s.err := rfl
@[simp] theorem State.updateView_failed (s : State) (v : ViewId) (f : View → View) : (s.updateView v f).failed = s.failed := rfl
@[simp] theorem State.updateView_ep (s : State) (v : ViewId) (f : View → View) : (s.updateView v f).ep = s.ep := rfl
@[simp] theorem State.updateView_bound (s : State) (v : ViewId) (f : View → View) : (s.updateView v f).bound = s.bound := rfl
@[simp] theorem State.updateView_views (s : State) (v : ViewId) (f : View → View) : (s.updateView v f).views = s.views.map fun V => if V.id = v then f V else V := rfl
@[simp] theorem State.updateView_hold (s : State) (v : ViewId) (f : View → View) : (s.updateView v f).hold = s.hold := rfl
@[simp] theorem State.updateView_requesters (s : State) (v : ViewId) (f : View → View) : (s.updateView v f).requesters = s.requesters := rfl
@[simp] theorem State.updateView_responses (s : State) (v : ViewId) (f : View → View) : (s.updateView v f).responses = s.responses := rfl
@[simp] theorem State.updateView_outstanding (s : State) (v : ViewId) (f : View → View) : (s.updateView v f).outstanding = s.outstanding := rfl
@[simp] theorem State.updateView_wire (s : State) (v : ViewId) (f : View → View) : (s.updateView v f).wire = s.wire := rfl
@[simp] theorem State.updateView_timeout (s : State) (v : ViewId) (f : View → View) : (s.updateView v f).timeout = s.timeout := rfl
@[simp] theorem State.updateView_env (s : State) (v : ViewId) (f : View → View) : (s.updateView v f).env = s.env := rfl
@[simp] theorem State.updateView_grants (s : State) (v : ViewId) (f : View → View) : (s.updateView v f).grants = s.grants := rfl

/-! `State.take` -/

@[simp] theorem State.take_seq (s : State) (k : Nat) : (s.take k).seq = s.seq := rfl
@[simp] theorem State.take_td (s : State) (k : Nat) : (s.take k).td = s.td := rfl
@[simp] theorem State.take_pbuf (s : State) (k : Nat) : (s.take k).pbuf = s.pbuf := rfl
@[simp] theorem State.take_rbuf (s : State) (k : Nat) : (s.take k).rbuf = s.rbuf := rfl
@[simp] theorem State.take_sts (s : State) (k : Nat) : (s.take k).sts = s.sts := rfl
@[simp] theorem State.take_cmp (s : State) (k : Nat) : (s.take k).cmp = s.cmp := rfl
@[simp] theorem State.take_err (s : State) (k : Nat) : (s.take k).err = s.err := rfl
@[simp] theorem State.take_failed (s : State) (k : Nat) : (s.take k).failed = s.failed := rfl
@[simp] theorem State.take_ep (s : State) (k : Nat) : (s.take k).ep = s.ep := rfl
@[simp] theorem State.take_bound (s : State) (k : Nat) : (s.take k).bound = s.bound := rfl
@[simp] theorem State.take_views (s : State) (k : Nat) : (s.take k).views = s.views := rfl
@[simp] theorem State.take_hold (s : State) (k : Nat) : (s.take k).hold = s.hold := rfl
@[simp] theorem State.take_requesters (s : State) (k : Nat) : (s.take k).requesters = s.requesters.modify k List.tail := rfl
@[simp] theorem State.take_responses (s : State) (k : Nat) : (s.take k).responses = s.responses := rfl
@[simp] theorem State.take_outstanding (s : State) (k : Nat) : (s.take k).outstanding = s.outstanding := rfl
@[simp] theorem State.take_wire (s : State) (k : Nat) : (s.take k).wire = s.wire := rfl
@[simp] theorem State.take_timeout (s : State) (k : Nat) : (s.take k).timeout = s.timeout := rfl
@[simp] theorem State.take_env (s : State) (k : Nat) : (s.take k).env = s.env := rfl
@[simp] theorem State.take_grants (s : State) (k : Nat) : (s.take k).grants = s.grants + 1 := rfl

end Sys2Proof.Machine
end

