-- ==== Sys2Proof/Laws/Ops.lean ====
section
/-! SUPPORT. What each shared operation can do, said once: the end of an operation, a transfer, acceptance. -/

namespace Sys2Proof.Machine

/-! The end of an engine operation touches `SEQ`, `ERR`, the hold, the views' DUMP state and the responses, nothing else. -/

/-- Every field but those five is unchanged when an engine operation ends. -/
theorem State.endEngine_frame (s : State) (p : Phase) (r : Response) :
    (s.endEngine p r).seq = p ∧ (s.endEngine p r).err = r.code ∧ (s.endEngine p r).td = s.td
      ∧ (s.endEngine p r).pbuf = s.pbuf ∧ (s.endEngine p r).rbuf = s.rbuf ∧ (s.endEngine p r).sts = s.sts
      ∧ (s.endEngine p r).cmp = s.cmp ∧ (s.endEngine p r).failed = s.failed ∧ (s.endEngine p r).ep = s.ep
      ∧ (s.endEngine p r).bound = s.bound ∧ (s.endEngine p r).requesters = s.requesters
      ∧ (s.endEngine p r).outstanding = s.outstanding ∧ (s.endEngine p r).wire = s.wire
      ∧ (s.endEngine p r).timeout = s.timeout ∧ (s.endEngine p r).env = s.env ∧ (s.endEngine p r).grants = s.grants := by
  simp only [State.endEngine]
  split
  · simp
  · simp only [State.viewReceives]
    split
    · split
      · simp only [State.compositeDone]
        split <;> simp
      · simp
    · simp only [State.compositeFailed]
      split <;> simp

@[simp] theorem State.endEngine_seq (s : State) (p : Phase) (r : Response) : (s.endEngine p r).seq = p :=
  (s.endEngine_frame p r).1
@[simp] theorem State.endEngine_err (s : State) (p : Phase) (r : Response) : (s.endEngine p r).err = r.code :=
  (s.endEngine_frame p r).2.1
@[simp] theorem State.endEngine_td (s : State) (p : Phase) (r : Response) : (s.endEngine p r).td = s.td :=
  (s.endEngine_frame p r).2.2.1
@[simp] theorem State.endEngine_pbuf (s : State) (p : Phase) (r : Response) : (s.endEngine p r).pbuf = s.pbuf :=
  (s.endEngine_frame p r).2.2.2.1
@[simp] theorem State.endEngine_rbuf (s : State) (p : Phase) (r : Response) : (s.endEngine p r).rbuf = s.rbuf :=
  (s.endEngine_frame p r).2.2.2.2.1
@[simp] theorem State.endEngine_sts (s : State) (p : Phase) (r : Response) : (s.endEngine p r).sts = s.sts :=
  (s.endEngine_frame p r).2.2.2.2.2.1
@[simp] theorem State.endEngine_cmp (s : State) (p : Phase) (r : Response) : (s.endEngine p r).cmp = s.cmp :=
  (s.endEngine_frame p r).2.2.2.2.2.2.1
@[simp] theorem State.endEngine_failed (s : State) (p : Phase) (r : Response) : (s.endEngine p r).failed = s.failed :=
  (s.endEngine_frame p r).2.2.2.2.2.2.2.1
@[simp] theorem State.endEngine_ep (s : State) (p : Phase) (r : Response) : (s.endEngine p r).ep = s.ep :=
  (s.endEngine_frame p r).2.2.2.2.2.2.2.2.1
@[simp] theorem State.endEngine_bound (s : State) (p : Phase) (r : Response) : (s.endEngine p r).bound = s.bound :=
  (s.endEngine_frame p r).2.2.2.2.2.2.2.2.2.1
@[simp] theorem State.endEngine_requesters (s : State) (p : Phase) (r : Response) :
    (s.endEngine p r).requesters = s.requesters :=
  (s.endEngine_frame p r).2.2.2.2.2.2.2.2.2.2.1
@[simp] theorem State.endEngine_outstanding (s : State) (p : Phase) (r : Response) :
    (s.endEngine p r).outstanding = s.outstanding :=
  (s.endEngine_frame p r).2.2.2.2.2.2.2.2.2.2.2.1
@[simp] theorem State.endEngine_wire (s : State) (p : Phase) (r : Response) : (s.endEngine p r).wire = s.wire :=
  (s.endEngine_frame p r).2.2.2.2.2.2.2.2.2.2.2.2.1
@[simp] theorem State.endEngine_timeout (s : State) (p : Phase) (r : Response) : (s.endEngine p r).timeout = s.timeout :=
  (s.endEngine_frame p r).2.2.2.2.2.2.2.2.2.2.2.2.2.1
@[simp] theorem State.endEngine_env (s : State) (p : Phase) (r : Response) : (s.endEngine p r).env = s.env :=
  (s.endEngine_frame p r).2.2.2.2.2.2.2.2.2.2.2.2.2.2.1
@[simp] theorem State.endEngine_grants (s : State) (p : Phase) (r : Response) : (s.endEngine p r).grants = s.grants :=
  (s.endEngine_frame p r).2.2.2.2.2.2.2.2.2.2.2.2.2.2.2

/-- At the host's ENG port an engine operation ends with one response there. -/
theorem State.endEngine_of_no_hold (s : State) (p : Phase) (r : Response) (h : s.hold = none) :
    s.endEngine p r = { s with seq := p, err := r.code, responses := s.responses ++ [⟨.eng, r⟩] } := by
  simp [State.endEngine, h, State.deliver]

/-- For a view with engine requests left to issue, an engine operation that ends with `OK` gives it the response, and the
view goes on holding the engine. -/
theorem State.endEngine_of_todo (s : State) (p : Phase) (r : Response) (h : Hold) (hh : s.hold = some h)
    (ht : h.todo ≠ []) (hr : r.code = .ok) :
    s.endEngine p r =
      { s with seq := p, err := .ok, responses := s.responses ++ [⟨.engToView h.view, r⟩] } := by
  simp [State.endEngine, hh, State.viewReceives, ht, hr, State.deliver]

/-- For a view with nothing left to issue, an engine operation that ends with `OK` ends an MWRITE or MREAD with its value. -/
theorem State.endEngine_of_last (s : State) (p : Phase) (r : Response) (h : Hold) (hh : s.hold = some h)
    (ht : h.todo = []) (he : h.element = none) (hr : r.code = .ok) :
    s.endEngine p r =
      { s with
        seq := p
        err := .ok
        hold := none
        responses := s.responses ++ [⟨.engToView h.view, r⟩, ⟨.mem h.view, ⟨.ok, r.value⟩⟩] } := by
  simp [State.endEngine, hh, State.viewReceives, ht, hr, he, State.deliver, State.compositeDone]

/-- An error of a sub-operation ends the composite with the same code and no value, and the hold. -/
theorem State.endEngine_of_error (s : State) (p : Phase) (r : Response) (h : Hold) (hh : s.hold = some h)
    (hr : r.code ≠ .ok) :
    (s.endEngine p r).hold = none
      ∧ (s.endEngine p r).responses
        = s.responses ++ [⟨.engToView h.view, r⟩, ⟨.mem h.view, ⟨r.code, .none⟩⟩] := by
  simp only [State.endEngine, hh, State.viewReceives, hr, if_false, State.compositeFailed]
  split <;> simp [State.deliver]

/-- What an error does to the views: for the host's operation, an MWRITE or an MREAD nothing, for a DUMP element the end of
that view's DUMP, its `LINE` kept. -/
theorem State.endEngine_views_of_error (s : State) (p : Phase) (r : Response) (hr : r.code ≠ .ok) :
    (s.hold = none → (s.endEngine p r).views = s.views)
      ∧ ∀ h, s.hold = some h → (h.element = none → (s.endEngine p r).views = s.views)
        ∧ ∀ a, h.element = some a → (s.endEngine p r).views
            = s.views.map fun W => if W.id = h.view then { W with dump := none } else W := by
  constructor
  · intro hh
    simp [State.endEngine_of_no_hold s p r hh]
  · intro h hh
    constructor
    · intro he
      simp [State.endEngine, hh, State.viewReceives, hr, State.compositeFailed, he, State.deliver]
    · intro a he
      simp [State.endEngine, hh, State.viewReceives, hr, State.compositeFailed, he, State.deliver, State.updateView,
        View.endDump]

/-- `raise` is the end of an engine operation, in `FAILED` for a transport error and in `IDLE` for any other. -/
theorem State.raise_transportIo (s : State) :
    s.raise .transportIo = { s with failed := true }.endEngine .failed ⟨.transportIo, .none⟩ := rfl
theorem State.raise_timeout (s : State) :
    s.raise .timeout = { s with failed := true }.endEngine .failed ⟨.timeout, .none⟩ := rfl
theorem State.raise_busBusy (s : State) : s.raise .busBusy = s.endEngine .idle ⟨.busBusy, .none⟩ := rfl

/-! A transfer -/

/-- What performing a transfer can do: wait, go on with the bytes, or raise. -/
theorem State.perform_cases (s : State) (t : Transfer) (k : State → List Byte → State) :
    (s.perform t k = s.issue t ∧ (s.env.answer t = none ∨ (∃ e, s.env.answer t = some (.never, e)) ∧ s.timeout = none))
      ∨ (∃ bytes e, s.env.answer t = some (.ok bytes, e) ∧ t.countOk bytes = true
          ∧ s.perform t k = k (s.returned t (.ok bytes) e) bytes)
      ∨ (∃ r e, s.env.answer t = some (r, e) ∧ (r = .fail ∨ ∃ bytes, r = .ok bytes ∧ t.countOk bytes = false)
          ∧ s.perform t k = (s.returned t r e).raise .transportIo)
      ∨ (∃ e n, s.env.answer t = some (.never, e) ∧ s.timeout = some n
          ∧ s.perform t k = (s.returned t .never e).raise .timeout) := by
  rcases hr : s.env.answer t with _ | ⟨r, e⟩
  · exact .inl ⟨by simp [State.perform, hr], .inl rfl⟩
  · cases r with
    | ok bytes =>
      cases hc : t.countOk bytes with
      | true => exact .inr (.inl ⟨bytes, e, rfl, hc, by simp [State.perform, hr, hc]⟩)
      | false =>
        exact .inr (.inr (.inl ⟨.ok bytes, e, rfl, .inr ⟨bytes, rfl, hc⟩, by simp [State.perform, hr, hc]⟩))
    | fail => exact .inr (.inr (.inl ⟨.fail, e, rfl, .inl rfl, by simp [State.perform, hr]⟩))
    | never =>
      cases ht : s.timeout with
      | none => exact .inl ⟨by simp [State.perform, hr, ht], .inr ⟨⟨e, rfl⟩, rfl⟩⟩
      | some n => exact .inr (.inr (.inr ⟨e, n, rfl, rfl, by simp [State.perform, hr, ht]⟩))

/-- A transfer that succeeds with the right byte count goes on. -/
theorem State.perform_of_ok (s : State) (t : Transfer) (k : State → List Byte → State) (bytes : List Byte) (e : Env)
    (h : s.env.answer t = some (.ok bytes, e)) (hc : t.countOk bytes = true) :
    s.perform t k = k (s.returned t (.ok bytes) e) bytes := by
  simp [State.perform, h, hc]

/-- A transfer that fails raises `TRANSPORT_IO`. -/
theorem State.perform_of_fail (s : State) (t : Transfer) (k : State → List Byte → State) (e : Env)
    (h : s.env.answer t = some (.fail, e)) : s.perform t k = (s.returned t .fail e).raise .transportIo := by
  simp [State.perform, h]

/-- A transfer that has not returned waits in its phase. -/
theorem State.perform_of_wait (s : State) (t : Transfer) (k : State → List Byte → State) (h : s.env.answer t = none) :
    s.perform t k = s.issue t := by
  simp [State.perform, h]

/-! Acceptance -/

/-- The engine is ready exactly in `IDLE`, bound and not failed. -/
theorem State.ready_iff (s : State) : s.ready = true ↔ s.bound = true ∧ s.failed = false ∧ s.seq = .idle := by
  simp [State.ready, and_assoc]

/-- A request at a port is accepted exactly when the engine is ready and nobody holds it. -/
theorem State.accepting_iff (s : State) :
    s.accepting = true ↔ s.bound = true ∧ s.failed = false ∧ s.seq = .idle ∧ s.hold = none := by
  simp [State.accepting, State.ready_iff, and_assoc]

/-- What presenting an engine request can do: nothing, or latch it, at the host's port or for the view that holds the
engine. -/
theorem State.acceptEngine_cases (s : State) (i : Instr) (td : Descriptor) (pbuf : List Byte) (first : Phase) :
    s.acceptEngine i td pbuf first = s
      ∨ (s.ready = true ∧ s.hold = none
          ∧ s.acceptEngine i td pbuf first = { s with td := td, pbuf := pbuf, seq := first })
      ∨ (s.ready = true ∧ ∃ h rest, s.hold = some h ∧ h.todo = i :: rest
          ∧ s.acceptEngine i td pbuf first
            = { s with td := td, pbuf := pbuf, seq := first, hold := some { h with todo := rest } }) := by
  cases hr : s.ready with
  | false => exact .inl (by simp [State.acceptEngine, hr])
  | true =>
    rcases hh : s.hold with _ | h
    · exact .inr (.inl ⟨rfl, rfl, by simp [State.acceptEngine, hr, hh]⟩)
    · rcases ht : h.todo with _ | ⟨j, rest⟩
      · exact .inl (by simp [State.acceptEngine, hr, hh, ht])
      · by_cases hj : j = i
        · subst hj
          exact .inr (.inr ⟨rfl, h, rest, rfl, ht, by simp [State.acceptEngine, hr, hh, ht]⟩)
        · exact .inl (by simp [State.acceptEngine, hr, hh, ht, hj])

/-- In a state that accepts, an engine request is latched. -/
theorem State.acceptEngine_of_accepting (s : State) (i : Instr) (td : Descriptor) (pbuf : List Byte) (first : Phase)
    (h : s.accepting = true) : s.acceptEngine i td pbuf first = { s with td := td, pbuf := pbuf, seq := first } := by
  have hh := (State.accepting_iff s).1 h
  simp [State.acceptEngine, (State.ready_iff s).2 ⟨hh.1, hh.2.1, hh.2.2.1⟩, hh.2.2.2]

/-- What an accepted MWRITE or MREAD can do: take hold of the engine, or raise `RANGE_EXCEEDED`. -/
theorem State.takeEngine_cases (s : State) (V : View) (sa : StartAddr) (n : Nat) (plan : List Instr) :
    (rangeOk V.aw sa n = true ∧ s.takeEngine V sa n plan = { s with hold := some ⟨V.id, plan, none⟩ })
      ∨ (rangeOk V.aw sa n = false ∧ s.takeEngine V sa n plan = s.raiseRange V.id) := by
  cases h : rangeOk V.aw sa n with
  | true => exact .inl ⟨rfl, by simp [State.takeEngine, h]⟩
  | false => exact .inr ⟨rfl, by simp [State.takeEngine, h]⟩

/-- A view found has the name it was looked up by, and exists. -/
theorem State.findView_some (s : State) (v : ViewId) (V : View) (h : s.findView v = some V) : V ∈ s.views ∧ V.id = v :=
  ⟨List.mem_of_find?_eq_some h, by simpa using List.find?_some h⟩

end Sys2Proof.Machine
end

