-- ==== Sys2Proof/Laws/PerInstr.lean ====
section
/-! SUPPORT. Statements made per instruction: one family, one lemma for each constructor of `Instr`. -/

namespace Sys2Proof.Laws

/-- How many bytes follow the first word of a request, by its `op` and `len` (30_encoding.md R117): as many as `len` for a
WRITE and an MWRITE, none otherwise; a control word is followed by none. -/
def followsAsTheWordSays : Encoded → Prop
  | .cw _ => True
  | .rq w payload =>
    payload.length = if w.extractLsb' 28 4 = 0x2#4 then (w.extractLsb' 0 16).toNat else 0
  | .mq _ w data => data.length = if w.extractLsb' 48 4 = 0x4#4 then (w.extractLsb' 0 16).toNat else 0

/-- The family: the encoding of a well-formed instruction is followed by the bytes its own first word announces (30_encoding.md
R117). -/
def EncodedLength.Statement (i : Instr) : Prop := i.wellFormed = true → followsAsTheWordSays (encode i)

theorem EncodedLength.resetRd : EncodedLength.Statement .resetRd := fun _ => trivial
theorem EncodedLength.resetWr : EncodedLength.Statement .resetWr := fun _ => trivial
theorem EncodedLength.getStatus : EncodedLength.Statement .getStatus := fun _ => trivial
theorem EncodedLength.i2cWrite (addr : DevAddr) (start stop : Bool) (len : Half) :
    EncodedLength.Statement (.i2cWrite addr start stop len) := fun _ => trivial
theorem EncodedLength.i2cRead (addr : DevAddr) (start stop : Bool) (len : Half) :
    EncodedLength.Statement (.i2cRead addr start stop len) := fun _ => trivial
theorem EncodedLength.reset : EncodedLength.Statement .reset := fun _ => by
  simp [encode, followsAsTheWordSays, rqWord_fields]
theorem EncodedLength.status : EncodedLength.Statement .status := fun _ => by
  simp [encode, followsAsTheWordSays, rqWord_fields]
theorem EncodedLength.write (addr : DevAddr) (payload : List Byte) (start stop : Bool) :
    EncodedLength.Statement (.write addr payload start stop) := fun h => by
  have hl := (wellFormed_write_iff addr payload start stop).1 h
  simp only [encode, followsAsTheWordSays, rqWord_fields, if_true, BitVec.toNat_ofNat]
  omega
theorem EncodedLength.read (addr : DevAddr) (length : Half) (start stop : Bool) :
    EncodedLength.Statement (.read addr length start stop) := fun _ => by
  simp [encode, followsAsTheWordSays, rqWord_fields]
theorem EncodedLength.mwrite (view : ViewId) (sa : StartAddr) (data : List Byte) :
    EncodedLength.Statement (.mwrite view sa data) := fun h => by
  have hl := (wellFormed_mwrite_iff view sa data).1 h
  simp only [encode, followsAsTheWordSays, mqWord_fields, if_true, BitVec.toNat_ofNat]
  omega
theorem EncodedLength.mread (view : ViewId) (sa : StartAddr) (length : Half) :
    EncodedLength.Statement (.mread view sa length) := fun _ => by
  simp [encode, followsAsTheWordSays, mqWord_fields]
theorem EncodedLength.dump (view : ViewId) (lineCount : Half) : EncodedLength.Statement (.dump view lineCount) :=
  fun _ => by simp [encode, followsAsTheWordSays, mqWord_fields]

end Sys2Proof.Laws
end

