-- ==== Sys2Proof/Laws/Step.lean ====
section
/-! SUPPORT. What a state does next, said once: the ports, the phases, and runs of several steps. -/

namespace Sys2Proof.Machine

/-- What looking at the ports can find: nothing that can be served, a demand, words that are no request, or a request. -/
theorem State.fetchPort_cases (s : State) :
    s.fetchPort = .wait
      ∨ (∃ k v, s.chosen = some k ∧ s.waitingAt k = some (.next v) ∧ s.accepting = true
          ∧ s.fetchPort = .element v (s.take k))
      ∨ (∃ k e why, s.chosen = some k ∧ s.waitingAt k = some (.request e) ∧ decode e = .rejected why
          ∧ s.fetchPort = .notARequest why)
      ∨ (∃ k e i, s.chosen = some k ∧ s.waitingAt k = some (.request e) ∧ decode e = .instr i
          ∧ s.fetchPort = .run i (if s.accepting then s.take k else s)) := by
  unfold State.fetchPort
  split
  · exact .inl rfl
  · rename_i k hk
    split
    · exact .inl rfl
    · rename_i v hv
      split
      · rename_i ha
        exact .inr (.inl ⟨k, v, hk, hv, ha, rfl⟩)
      · exact .inl rfl
    · rename_i e he
      split
      · rename_i why hw
        exact .inr (.inr (.inl ⟨k, e, why, hk, he, hw, rfl⟩))
      · rename_i i hw
        exact .inr (.inr (.inr ⟨k, e, i, hk, he, hw, rfl⟩))

/-- An idle engine that nobody holds looks at the ports, and so does one that is unbound or failed. -/
theorem State.fetch_of_ports (s : State) (h : s.seq = .idle ∧ s.hold = none ∨ s.seq = .unbound ∨ s.seq = .failed) :
    s.fetch = s.fetchPort := by
  rcases h with ⟨h, hh⟩ | h | h
  · simp [State.fetch, h, hh]
  · simp [State.fetch, h]
  · simp [State.fetch, h]

/-- With nobody waiting there is nothing at the ports. -/
theorem State.fetchPort_of_no_requester (s : State) (h : s.requesters = []) : s.fetchPort = .wait := by
  simp [State.fetchPort, State.chosen, State.candidates, h]

/-- No step is no change. -/
@[simp] theorem State.after_zero (s : State) : s.after 0 = .next s := rfl

/-- A run goes on from the next state of its first step. -/
theorem State.after_succ_of_next (k : Nat) (s t : State) (h : step s = .next t) : s.after (k + 1) = t.after k := by
  have h' : Sys2Proof.core.step s = .next t := h
  simp only [State.after, Host.Core.run]
  rw [h']

/-- A run that answers a next state began with a step that did. -/
theorem State.after_succ_next_iff (k : Nat) (s t : State) :
    s.after (k + 1) = .next t ↔ ∃ u, step s = .next u ∧ u.after k = .next t := by
  have h : Sys2Proof.core.step s = step s := rfl
  simp only [State.after, Host.Core.run]
  rw [h]
  cases step s <;> simp

/-- A state whose step answers itself stays as it is. -/
theorem State.after_of_step_self (k : Nat) (s : State) (h : step s = .next s) : s.after k = .next s := by
  induction k with
  | zero => rfl
  | succ k ih => rw [State.after_succ_of_next k s s h, ih]

/-- An engine that nobody holds and nobody waits for stays as it is, idle or failed or unbound. -/
theorem State.after_of_quiet (k : Nat) (s : State)
    (h : s.seq = .idle ∧ s.hold = none ∨ s.seq = .unbound ∨ s.seq = .failed) (hr : s.requesters = []) :
    s.after k = .next s :=
  State.after_of_step_self k s (by simp [step, State.fetch_of_ports s h, State.fetchPort_of_no_requester s hr])

/-- The step of a phase that issues a bridge command runs that command. -/
theorem step_of_bridgeCommand (s : State) (i : Instr) (h : s.bridgeCommand = some i) : step s = exec i s := by
  have hb := h
  unfold State.bridgeCommand at hb
  split at hb <;> simp at hb <;> subst hb <;> rename_i hs ho <;> simp [step, State.fetch, hs, h]

/-- The step of the phase `PAYLOAD_TRANSFER` of a WRITE. -/
theorem step_of_payload_write (s : State) (hs : s.seq = .payloadTransfer) (ho : s.td.op = .write) :
    step s = .next (s.perform (.bout s.ep.bulkOut s.pbuf) fun s _ => s.goto .completionWait) := by
  simp [step, State.fetch, hs, State.inTransaction, ho, State.payloadTransfer]

/-- The step of the phase `PAYLOAD_TRANSFER` of a READ. -/
theorem step_of_payload_read (s : State) (hs : s.seq = .payloadTransfer) (ho : s.td.op = .read) :
    step s = .next (s.perform (.bin s.ep.bulkIn s.td.len.toNat) fun s bytes =>
      { s with rbuf := bytes }.goto .completionWait) := by
  simp [step, State.fetch, hs, State.inTransaction, ho, State.payloadTransfer]

/-- The step of the phase `COMPLETION_WAIT`. -/
theorem step_of_completion (s : State) (hs : s.seq = .completionWait) (ho : s.td.op = .write ∨ s.td.op = .read) :
    step s = .next s.completionWait := by
  simp [step, State.fetch, hs, State.inTransaction, ho]

/-- The step of the phase `ABORT`. -/
theorem step_of_abort (s : State) (hs : s.seq = .abort) (ho : s.td.op = .write ∨ s.td.op = .read) :
    step s = .next (s.raise .busBusy) := by
  simp [step, State.fetch, hs, State.inTransaction, ho, State.abortOperation]

end Sys2Proof.Machine
end

