-- ==== Sys2Proof/Tests/Slice0.lean ====
section
/-! SUPPORT. The model's own tests. Expected words, traces and values are those of 95_test_vectors.md (parts A to H and P1 to
P6) and of the rules named; the `witness_` theorems show, for a statement that has hypotheses, a state and operands that meet
them together. -/

namespace Sys2Proof.Tests

open Sys2Proof.Machine

/-! Small states -/

/-- The view `V` of part H: device 0x50, two address bytes, default policies. -/
def viewV : View := View.create 7 0x50#7 .two Policies.default

/-- The view `U` of part H: device 0x50, one address byte. -/
def viewU : View := View.create 8 0x50#7 .one Policies.default

/-- Right after construction, with the two views created and the next replies given. -/
def idle (rs : List Reply) : State := { State.reset with env := .oracle rs, views := [viewV, viewU] }

/-- In a phase of an operation. -/
def inPhase (p : Phase) (td : Descriptor) (pbuf : List Byte) (rs : List Reply) : State :=
  { idle rs with seq := p, td := td, pbuf := pbuf }

/-- The descriptor of `WRITE 0x50, [0xAA], 1, 1` and of `READ 0x50, 1, 1, 1`. -/
def writeTd : Descriptor := ⟨.write, 0x50#7, true, true, 1#16⟩
def readTd : Descriptor := ⟨.read, 0x50#7, true, true, 1#16⟩
def resetTd : Descriptor := ⟨.reset, 0#7, false, false, 0#16⟩
def statusTd : Descriptor := ⟨.status, 0#7, false, false, 0#16⟩

/-- A request waits at its port. -/
def asked (s : State) (e : Encoded) : State := { s with requesters := [[.request e]] }

/-- The demand for a DUMP element of view `U` waits, with the DUMP of nine lines at line `n`. -/
def demandedU (n : Nat) : State :=
  { idle [] with views := [viewV, { viewU with line := n, dump := some 9#16 }], requesters := [[.next 8]] }

/-- In a phase of the READ of the second element of a DUMP of view `U`. -/
def elementU (p : Phase) (rs : List Reply) : State :=
  { inPhase p readTd [] rs with
    views := [viewV, { viewU with line := 1, dump := some 9#16 }]
    hold := some ⟨8, [], some 32#32⟩ }

/-- `ENV_IDEAL` with one device at 0x50, two address bytes, and a transaction in the slot. -/
def device50 : Device := ⟨0x50#7, .two, [], 0⟩
def slotWrite : SlotEntry := ⟨false, 0x50#7, true, 3#16⟩
def ideal50 : IdealAdapter := ⟨[device50], false, some slotWrite, 0⟩

/-- So many zero bytes. -/
def zeros (n : Nat) : List Byte := List.replicate n 0#8
theorem zeros_length (n : Nat) : (zeros n).length = n := List.length_replicate

/-- The next state, if there is one. -/
def nextOf (o : Host.Outcome State Fault Refusal) : Option State :=
  match o with
  | .next s => some s
  | .fault _ => none
  | .refused _ => none

/-! Well-formedness (30_encoding.md R127): each check refuses an ill-formed term -/

theorem test_wellFormed_write_65535 : (Instr.write 0#7 (zeros 65535) false false).wellFormed = true := by
  simp [Instr.wellFormed, zeros_length]
theorem test_wellFormed_write_65536 : (Instr.write 0#7 (zeros 65536) false false).wellFormed = false := by
  simp [Instr.wellFormed, zeros_length]
theorem test_wellFormed_mwrite_65536 : (Instr.mwrite 7 0#32 (zeros 65536)).wellFormed = false := by
  simp [Instr.wellFormed, zeros_length]
/-- Vector H13: two address bytes and 65534 bytes of data do not fit. -/
theorem test_fitsView_H13 : fitsView .two (zeros 65534) = false := by
  simp [fitsView, AddrWidth.bytes, zeros_length]
theorem test_fitsView_65533 : fitsView .two (zeros 65533) = true := by
  simp [fitsView, AddrWidth.bytes, zeros_length]
/-- An address width of 0 or 5 is no view's (10_state.md R40). -/
theorem test_width_refused : AddrWidth.ofNat? 0 = none ∧ AddrWidth.ofNat? 5 = none := by decide

/-! Decoding: the words of parts B and C, one for every row, and the words refused -/

theorem test_decode_RESET_RD : decode (.cw 0x1C9000000000000#57) = .instr .resetRd := by decide
theorem test_decode_RESET_WR : decode (.cw 0x1C9000100000000#57) = .instr .resetWr := by decide
theorem test_decode_GET_STATUS : decode (.cw 0x1C8000000000003#57) = .instr .getStatus := by decide
theorem test_decode_I2C_WRITE : decode (.cw 0x0C6500100220000#57) = .instr (.i2cWrite 0x50#7 true false 34#16) := by decide
theorem test_decode_I2C_READ : decode (.cw 0x0C7500300200000#57) = .instr (.i2cRead 0x50#7 true true 32#16) := by decide
theorem test_decode_RESET : decode (.rq 0x00000000#32 []) = .instr .reset := by decide
theorem test_decode_STATUS : decode (.rq 0x10000000#32 []) = .instr .status := by decide
theorem test_decode_WRITE :
    decode (.rq 0x21410002#32 [0xB0#8, 0xB1#8]) = .instr (.write 0x50#7 [0xB0#8, 0xB1#8] true false) := by decide
theorem test_decode_READ : decode (.rq 0x31430020#32 []) = .instr (.read 0x50#7 32#16 true true) := by decide
theorem test_decode_MWRITE :
    decode (.mq 7 0x400003FE00002#52 [1#8, 2#8]) = .instr (.mwrite 7 0x3FE0#32 [1#8, 2#8]) := by decide
theorem test_decode_MREAD : decode (.mq 7 0x5000000000020#52 []) = .instr (.mread 7 0#32 32#16) := by decide
theorem test_decode_DUMP : decode (.mq 7 0x6000000000002#52 []) = .instr (.dump 7 2#16) := by decide

/-- Part B: words of no row. -/
theorem test_decode_no_row :
    decode (.cw 0x1C9000200000000#57) = .rejected .noSuchCommand ∧ decode (.cw 0x1C6500100220000#57) = .rejected .noSuchCommand
      ∧ decode (.cw 0x0C6D00100220000#57) = .rejected .noSuchCommand
      ∧ decode (.cw 0x0C6500500220000#57) = .rejected .noSuchCommand
      ∧ decode (.cw 0x1C8000000000002#57) = .rejected .noSuchCommand
      ∧ decode (.cw 0x0C5000000000000#57) = .rejected .noSuchCommand := by decide
/-- Part C: words refused. -/
theorem test_decode_refused :
    decode (.rq 0x70000000#32 []) = .rejected .reservedOp ∧ decode (.rq 0x10000001#32 []) = .rejected .mustBeZero
      ∧ decode (.rq 0x22000000#32 []) = .rejected .mustBeZero ∧ decode (.mq 7 0x6000000010002#52 []) = .rejected .mustBeZero
      ∧ decode (.rq 0x40000000#32 []) = .rejected .wrongPort ∧ decode (.mq 7 0x2000000000000#52 []) = .rejected .wrongPort
      ∧ decode (.rq 0x21410002#32 [1#8]) = .rejected .lengthMismatch := by decide
/-- The rows as the opcode table numbers their bits, and a pad bit set. -/
theorem test_decodeTableWord :
    decodeTableWord 64 0x1C8000000000003 = some .getStatus ∧ decodeTableWord 32 0x31430020 = some (.read 0x50#7 32#16 true true)
      ∧ decodeTableWord 56 0x5000000000020 = some (.mread 0 0#32 32#16)
      ∧ decodeTableWord 32 0x21410002 = some (.write 0x50#7 [0#8, 0#8] true false)
      ∧ decodeTableWord 56 0x15000000000020 = none := by decide

/-! Encoding: the words the spec writes -/

theorem test_encode_WRITE : encode (.write 0x7F#7 [] false false) = .rq 0x21FC0000#32 [] := by decide
theorem test_encode_I2C_READ : encode (.i2cRead 0x7F#7 true true 65535#16) = .cw 0x0C77F03FFFF0000#57 := by decide
theorem test_text : (Instr.i2cWrite 0x50#7 true false 34#16).text = "I2C_WRITE 80, 1, 0, 34" := by decide

/-! Operands (parts D, F, G) -/

theorem test_prefix : bigEndian 2 0x3FE0 = [0x3F#8, 0xE0#8] ∧ bigEndian 4 0xDEADBEEF = [0xDE#8, 0xAD#8, 0xBE#8, 0xEF#8] := by
  decide
theorem test_interpret : interpret ⟨0xFE#8, 0#8, 0#8⟩ = true ∧ interpret ⟨0x81#8, 0#8, 0#8⟩ = false
    ∧ interpret ⟨0#8, 1#8, 1#8⟩ = true := by decide
theorem test_range : rangeOk .one 255#32 2 = false ∧ rangeOk .one 256#32 0 = false ∧ rangeOk .one 224#32 32 = true
    ∧ rangeOk .four 0xFFFFFFFF#32 1 = true ∧ rangeOk .four 0xFFFFFFFF#32 2 = false ∧ rangeOk .two 1#32 65535 = true := by decide

/-! The host's two functions: a table word stands where the next step finds it -/

/-- `RESET` and `READ` are accepted by the first step after reset. -/
theorem test_fetch_RESET : nextOf (step (State.reset.withFetchWord 32 0)) = some { State.reset with
    seq := .resetRd, grants := 1, requesters := [[]] } := by decide
theorem test_fetch_READ : nextOf (step (State.reset.withFetchWord 32 0x31430020)) = some { State.reset with
    seq := .statusCheck, td := ⟨.read, 0x50#7, true, true, 32#16⟩, grants := 1, requesters := [[]] } := by decide
/-- A bridge command's first step issues its transfer. -/
theorem test_fetch_GET_STATUS : (nextOf (step (State.reset.withFetchWord 64 0x1C8000000000003))).map State.outstanding
    = some (some (.ctl cwGetStatus)) := by decide
theorem test_fetch_I2C_WRITE : (nextOf (step (State.reset.withFetchWord 64 0x0C6500100220000))).map State.outstanding
    = some (some (.ctl (cwI2cWrite 0x50#7 true false 34#16))) := by decide
/-- `MREAD` takes hold of the engine; `DUMP` issues nothing. -/
theorem test_fetch_MREAD : ((nextOf (step (State.reset.withFetchWord 56 0x5000000000020))).bind State.hold).map Hold.view
    = some 0 := by decide
theorem test_fetch_DUMP : (nextOf (step (State.reset.withFetchWord 56 0x6000000000002))).map State.outstanding
    = some none := by decide

/-! One step of each phase (part E, part H) -/

/-- E2: a RESET whose first transfer fails. -/
theorem test_E2 : (nextOf (step (inPhase .resetRd resetTd [] [.fail]))).map (fun s => (s.seq, s.failed, s.err, s.responses))
    = some (.failed, true, .transportIo, [⟨.eng, ⟨.transportIo, .none⟩⟩]) := by decide
/-- E5: STATUS answers 0 when the flag is set. -/
theorem test_E5 : (nextOf (step (inPhase .statusCheck statusTd [] [.ok [1#8, 0#8, 0#8]]))).map (fun s => (s.seq, s.err, s.responses))
    = some (.idle, .ok, [⟨.eng, ⟨.ok, .bit false⟩⟩]) := by decide
/-- E7: a busy status takes a WRITE to `ABORT`; E20: two bytes of status are a failure. -/
theorem test_E7 : (nextOf (step (inPhase .statusCheck writeTd [0xAA#8] [.ok [1#8, 0#8, 0#8]]))).map State.seq = some .abort := by
  decide
theorem test_E20 : (nextOf (step (inPhase .statusCheck statusTd [] [.ok [0#8, 0#8]]))).map State.err = some .transportIo := by
  decide
/-- E8, fourth transfer: the completion signal ends the WRITE. -/
theorem test_E8 : (nextOf (step (inPhase .completionWait writeTd [0xAA#8] [.ok [9#8, 9#8, 9#8]]))).map
    (fun s => (s.seq, s.cmp, s.responses)) = some (.idle, ⟨9#8, 9#8, 9#8⟩, [⟨.eng, ⟨.ok, .none⟩⟩]) := by decide
/-- E16: a bulk-in with a byte too few is a failure. -/
theorem test_E16 : (nextOf (step (inPhase .payloadTransfer ⟨.read, 0x50#7, true, true, 4#16⟩ [] [.ok [1#8, 2#8, 3#8]]))).map
    State.err = some .transportIo := by decide
/-- H1, H4: out of range, nothing is issued, not even the RESET. -/
theorem test_H4 : nextOf (exec (.mread 7 0xFFE1#32 32#16) (idle [])) = some { idle [] with
    err := .rangeExceeded, responses := [⟨.mem 7, ⟨.rangeExceeded, .none⟩⟩] } := by decide
/-- S8: the plan of an MREAD. -/
theorem test_S8 : ((nextOf (exec (.mread 7 0#32 32#16) (idle []))).bind State.hold).map Hold.todo
    = some [.reset, .write 0x50#7 [0#8, 0#8] true false, .read 0x50#7 32#16 true true] := by decide
/-- H12: line 8 of a one-byte view is out of range, and `LINE` stays 8. -/
theorem test_H12 : (nextOf (step (demandedU 8))).map (fun s => (s.err, s.outstanding, s.views.map View.line))
    = some (.rangeExceeded, none, [0, 8]) := by decide

/-- R176, R177: an abort in a DUMP element ends that DUMP, its `LINE` kept, at the view's port and at the ENG port. -/
theorem test_element_abort : (nextOf (step (elementU .abort []))).map
    (fun s => (s.views.map View.line, s.views.map View.dump, s.responses))
    = some ([0, 1], [none, none], [⟨.engToView 8, ⟨.busBusy, .none⟩⟩, ⟨.mem 8, ⟨.busBusy, .none⟩⟩]) := by decide

/-! Witnesses: the hypotheses of each statement, met together -/

theorem witness_DecodeEncodeRoundTrip :
    (Instr.write 0x50#7 (zeros 65535) true false).wellFormed = true
      ∧ (Instr.mwrite 7 0xFFFFFFFF#32 []).wellFormed = true := by
  simp [Instr.wellFormed, zeros_length]
theorem witness_UnpackRecoversOperands : pack 0x7F#7 true true = pack 0x7F#7 true true := by decide
theorem witness_RequestRowsMatchTheirMasks :
    ([] : List Byte).length = ((0x21FC0000#32).extractLsb' 0 16).toNat
      ∧ [1#8, 2#8].length = ((0x400003FE00002#52).extractLsb' 0 16).toNat
      ∧ 0x7#4 ≤ (0x70000000#32).extractLsb' 28 4 ∧ 0x7#4 ≤ (0xF000000000000#52).extractLsb' 48 4 := by decide
theorem witness_PrefixIsBigEndian : (0 < 1) ∧ (3 < 4) := by decide
theorem witness_StepRunsTheInstruction :
    ((asked (idle []) (.rq 0x31430020#32 [])).accepting = true ∧ (asked (idle []) (.rq 0x31430020#32 [])).chosen = some 0
      ∧ (asked (idle []) (.rq 0x31430020#32 [])).waitingAt 0 = some (.request (.rq 0x31430020#32 []))
      ∧ decode (.rq 0x31430020#32 []) = .instr (.read 0x50#7 32#16 true true))
    ∧ (({ idle [] with hold := some ⟨7, [.reset], none⟩ }).seq = .idle
      ∧ ({ idle [] with hold := some ⟨7, [.reset], none⟩ }).hold = some ⟨7, [.reset], none⟩)
    ∧ (inPhase .commandDispatch writeTd [0xAA#8] []).bridgeCommand = some (.i2cWrite 0x50#7 true true 1#16) := by decide
theorem witness_ReservedWordsAreRefused :
    ((asked (idle []) (.rq 0x70000000#32 [])).chosen = some 0
      ∧ (asked (idle []) (.rq 0x70000000#32 [])).waitingAt 0 = some (.request (.rq 0x70000000#32 []))
      ∧ decode (.rq 0x70000000#32 []) = .rejected .reservedOp)
    ∧ (asked (inPhase .failed resetTd [] []) (.rq 0x70000000#32 [])).chosen = some 0
    ∧ (asked (inPhase .unbound resetTd [] []) (.rq 0x70000000#32 [])).chosen = some 0 := by decide
theorem witness_RequestNotAcceptedWaits :
    (Instr.isEngineRequest (.read 0x50#7 1#16 true true) = true ∧ (inPhase .failed resetTd [] []).ready = false)
    ∧ ({ idle [] with hold := some ⟨7, [.reset], none⟩ }).hold = some ⟨7, [.reset], none⟩
    ∧ [Instr.reset].head? ≠ some .status
    ∧ (inPhase .completionWait writeTd [0xAA#8] []).findView 7 = some viewV
    ∧ fitsView viewV.aw [1#8] = true ∧ (inPhase .completionWait writeTd [0xAA#8] []).accepting = false := by decide
theorem witness_IllFormedRequestsAreRefused :
    Config.lenMax < (zeros 65536).length ∧ (idle []).findView 7 = some viewV
      ∧ Config.lenMax < viewV.aw.bytes + (zeros 65534).length := by
  refine ⟨by simp [zeros_length], by decide, ?_⟩
  simp [viewV, View.create, AddrWidth.bytes, zeros_length]
theorem witness_EngineRequestsAreLatched :
    (idle []).accepting = true ∧ ([] : List Byte).length ≤ Config.lenMax
      ∧ (zeros 65535).length ≤ Config.lenMax := by
  exact ⟨by decide, by decide, by simp [zeros_length]⟩
theorem witness_ViewRequestIsAccepted :
    ({ idle [] with hold := some ⟨7, [.reset, .status], none⟩ }).ready = true ∧ Instr.isEngineRequest .reset = true
      ∧ (nextOf (exec .reset (idle []))).isSome = true := by decide
theorem witness_ResetCommandsComplete :
    ((inPhase .resetRd resetTd [] [.ok []]).seq = .resetRd
      ∧ (inPhase .resetRd resetTd [] [.ok []]).env.answer (.ctl cwResetRd) = some (.ok [], .oracle []))
    ∧ ((inPhase .resetWr resetTd [] [.ok []]).hold = none
      ∧ (inPhase .resetWr resetTd [] [.ok []]).env.answer (.ctl cwResetWr) = some (.ok [], .oracle []))
    ∧ (⟨7, [.status], none⟩ : Hold).todo ≠ [] := by decide
theorem witness_GetStatusCompletes :
    (inPhase .statusCheck statusTd [] [.ok [1#8, 2#8, 3#8]]).env.answer (.ctl cwGetStatus)
      = some (.ok [1#8, 2#8, 3#8], .oracle [])
    ∧ (inPhase .statusCheck statusTd [] []).td.op = .status ∧ (inPhase .statusCheck statusTd [] []).hold = none
    ∧ (inPhase .statusCheck writeTd [0xAA#8] []).td.op = .write ∧ (inPhase .statusCheck readTd [] []).td.op = .read := by decide
theorem witness_TransactionCommandsComplete :
    (inPhase .commandDispatch writeTd [0xAA#8] [.ok []]).td = ⟨.write, 0x50#7, true, true, 1#16⟩
    ∧ (inPhase .commandDispatch readTd [] [.ok []]).td = ⟨.read, 0x50#7, true, true, 1#16⟩
    ∧ (inPhase .commandDispatch readTd [] [.ok []]).env.answer (.ctl (cwI2cRead 0x50#7 true true 1#16))
      = some (.ok [], .oracle [])
    ∧ (inPhase .commandDispatch writeTd [0xAA#8] [.ok []]).env.answer (.ctl (cwI2cWrite 0x50#7 true true 1#16))
      = some (.ok [], .oracle []) := by decide
theorem witness_CommandsAreNeverIssuedElsewhere :
    (idle []).seq ≠ .resetRd ∧ (idle []).seq ≠ .commandDispatch
    ∧ (inPhase .commandDispatch writeTd [0xAA#8] []).td ≠ ⟨.read, 0x50#7, true, true, 1#16⟩ := by decide
theorem witness_BulkTransferCompletes :
    (inPhase .payloadTransfer writeTd [0xAA#8] [.ok []]).env.answer (.bout (some 3) [0xAA#8]) = some (.ok [], .oracle [])
    ∧ (inPhase .payloadTransfer readTd [] [.ok [5#8]]).env.answer (.bin (some 2) 1) = some (.ok [5#8], .oracle [])
    ∧ [5#8].length = readTd.len.toNat := by decide
theorem witness_CompletionEndsTheTransaction :
    (inPhase .completionWait writeTd [0xAA#8] [.ok [0#8, 0#8, 0#8]]).hold = none
    ∧ (inPhase .completionWait writeTd [0xAA#8] [.ok [0#8, 0#8, 0#8]]).env.answer (.int (some 1) 3)
      = some (.ok [0#8, 0#8, 0#8], .oracle [])
    ∧ (inPhase .completionWait readTd [] [.ok [0#8, 0#8, 0#8]]).td.op = .read := by decide
theorem witness_CompletionBytesAreNotInspected :
    (nextOf (step (inPhase .completionWait readTd [] [.ok [0#8, 0#8, 0#8]]))).isSome = true
    ∧ (nextOf (step (inPhase .completionWait readTd [] [.ok [0xFF#8, 1#8, 2#8]]))).isSome = true := by decide
theorem witness_OnlyTheBusyBitIsRead :
    (0x80#8).getLsbD 0 = (0x20#8).getLsbD 0
    ∧ (nextOf (step (inPhase .statusCheck readTd [] [.ok [0x80#8, 0#8, 0#8]]))).isSome = true
    ∧ (nextOf (step (inPhase .statusCheck readTd [] [.ok [0x20#8, 1#8, 1#8]]))).isSome = true := by decide
theorem witness_BusyStatusAborts :
    (inPhase .statusCheck writeTd [0xAA#8] [.ok [0x01#8, 0#8, 0#8]]).env.answer (.ctl cwGetStatus)
      = some (.ok [0x01#8, 0#8, 0#8], .oracle [])
    ∧ (0x01#8).getLsbD 0 = true ∧ (inPhase .statusCheck writeTd [0xAA#8] []).hold = none
    ∧ (inPhase .statusCheck writeTd [0xAA#8] []).bound = true ∧ (inPhase .statusCheck writeTd [0xAA#8] []).failed = false
    ∧ ({ inPhase .statusCheck writeTd [0xAA#8] [] with hold := some ⟨7, [], none⟩ }).hold = some ⟨7, [], none⟩
    ∧ (elementU .statusCheck [.ok [0x01#8, 0#8, 0#8]]).hold = some ⟨8, [], some 32#32⟩
    ∧ (elementU .statusCheck [.ok [0x01#8, 0#8, 0#8]]).env.answer (.ctl cwGetStatus)
      = some (.ok [0x01#8, 0#8, 0#8], .oracle []) := by decide
theorem witness_TransferFailureIsTerminal :
    ((inPhase .resetWr resetTd [] [.fail]).phaseTransfer = some (.ctl cwResetWr)
      ∧ (inPhase .resetWr resetTd [] [.fail]).env.answer (.ctl cwResetWr) = some (.fail, .oracle []))
    ∧ ((inPhase .payloadTransfer readTd [] [.ok []]).phaseTransfer = some (.bin (some 2) 1)
      ∧ (Transfer.bin (some 2) 1).countOk [] = false)
    ∧ ((elementU .commandDispatch [.fail]).hold = some ⟨8, [], some 32#32⟩
      ∧ (elementU .commandDispatch [.fail]).phaseTransfer = some (.ctl (cwI2cRead 0x50#7 true true 1#16))
      ∧ (elementU .commandDispatch [.fail]).env.answer (.ctl (cwI2cRead 0x50#7 true true 1#16)) = some (.fail, .oracle [])) := by
  decide
theorem witness_TimeoutOnlyWhereBounded :
    ({ inPhase .completionWait writeTd [0xAA#8] [.never] with timeout := some 0 }).phaseTransfer = some (.int (some 1) 3)
    ∧ ({ inPhase .completionWait writeTd [0xAA#8] [.never] with timeout := some 0 }).env.answer (.int (some 1) 3)
      = some (.never, .oracle [])
    ∧ ({ inPhase .completionWait writeTd [0xAA#8] [.never] with timeout := some 0 }).hold = none
    ∧ ({ elementU .completionWait [.never] with timeout := some 0 }).hold = some ⟨8, [], some 32#32⟩
    ∧ ({ elementU .completionWait [.never] with timeout := some 0 }).phaseTransfer = some (.int (some 1) 3)
    ∧ (inPhase .completionWait writeTd [0xAA#8] [.never]).timeout = none := by decide
theorem witness_UnansweredTransferWaitsForEver :
    (inPhase .completionWait writeTd [0xAA#8] []).phaseTransfer = some (.int (some 1) 3)
    ∧ (inPhase .completionWait writeTd [0xAA#8] []).env.answer (.int (some 1) 3) = none
    ∧ (inPhase .completionWait writeTd [0xAA#8] [.never]).env.answer (.int (some 1) 3) = some (.never, .oracle []) := by decide
theorem witness_OutOfRangeIssuesNothing :
    (idle []).accepting = true ∧ (idle []).findView 8 = some viewU ∧ fitsView viewU.aw [1#8, 2#8] = true
    ∧ rangeOk viewU.aw 255#32 [1#8, 2#8].length = false ∧ rangeOk viewU.aw 256#32 (0#16).toNat = false := by decide
theorem witness_MwritePlansOneWrite :
    (idle []).accepting = true ∧ (idle []).findView 8 = some viewU ∧ viewU.aw.bytes + [1#8].length ≤ Config.lenMax
    ∧ (255#32).toNat + [1#8].length ≤ 256 ^ viewU.aw.bytes ∧ (255#32).toNat < 256 ^ viewU.aw.bytes := by decide
theorem witness_MreadPlansThreeOperations :
    (idle []).accepting = true ∧ (idle []).findView 8 = some viewU
    ∧ (224#32).toNat + (32#16).toNat ≤ 256 ^ viewU.aw.bytes ∧ (224#32).toNat < 256 ^ viewU.aw.bytes := by decide
theorem witness_DumpStartsAtLineZero : (idle []).accepting = true ∧ (idle []).findView 7 = some viewV := by decide
/-- Line 7 is the last in range of a one-byte view, line 8 the first out of it. -/
theorem witness_DumpDemandReadsOneLine :
    ((demandedU 7).accepting = true ∧ (demandedU 7).chosen = some 0 ∧ (demandedU 7).waitingAt 0 = some (.next 8)
      ∧ (demandedU 7).findView 8 = some { viewU with line := 7, dump := some 9#16 } ∧ 7 < (9#16).toNat
      ∧ 7 * 32 + 32 ≤ 256 ^ viewU.aw.bytes)
    ∧ ((demandedU 8).accepting = true ∧ (demandedU 8).chosen = some 0 ∧ (demandedU 8).waitingAt 0 = some (.next 8)
      ∧ (demandedU 8).findView 8 = some { viewU with line := 8, dump := some 9#16 } ∧ 8 < (9#16).toNat
      ∧ 256 ^ viewU.aw.bytes < 8 * 32 + 32) := by decide
theorem witness_DumpElementIsDelivered :
    ({ inPhase .completionWait readTd [] [.ok [0#8, 0#8, 0#8]] with hold := some ⟨8, [], some 32#32⟩ }).hold
      = some ⟨8, [], some 32#32⟩
    ∧ (inPhase .completionWait readTd [] [.ok [0#8, 0#8, 0#8]]).td.op = .read
    ∧ (inPhase .completionWait readTd [] [.ok [0#8, 0#8, 0#8]]).env.answer (.int (some 1) 3)
      = some (.ok [0#8, 0#8, 0#8], .oracle []) := by decide
theorem witness_MwriteIsOneTransaction :
    (idle [.ok [0#8, 0#8, 0#8], .ok [], .ok [], .ok [0#8, 0#8, 0#8]]).accepting = true
    ∧ (idle [.ok [0#8, 0#8, 0#8], .ok [], .ok [], .ok [0#8, 0#8, 0#8]]).requesters = []
    ∧ (idle []).findView 7 = some viewV ∧ fitsView viewV.aw [1#8] = true ∧ rangeOk viewV.aw 0xFFFF#32 [1#8].length = true
    ∧ (0#8).getLsbD 0 = false := by decide
theorem witness_MreadIsResetAndTwoTransactions :
    (idle []).accepting = true ∧ (idle []).requesters = [] ∧ (idle []).findView 7 = some viewV
    ∧ rangeOk viewV.aw 0xFFFF#32 (1#16).toNat = true ∧ [5#8].length = (1#16).toNat ∧ (0xFE#8).getLsbD 0 = false := by decide
theorem witness_ResetAndStatusRunTheirPseudocode :
    (idle [.ok []]).accepting = true ∧ (idle [.ok []]).requesters = [] ∧ (idle [.ok []]).outstanding = none := by decide
theorem witness_WriteRunsItsPseudocode :
    (idle [.ok [0#8, 0#8, 0#8]]).accepting = true ∧ (idle [.ok [0#8, 0#8, 0#8]]).requesters = []
    ∧ (idle [.ok [0#8, 0#8, 0#8]]).outstanding = none ∧ (zeros 65535).length ≤ Config.lenMax := by
  exact ⟨by decide, by decide, by decide, by simp [zeros_length]⟩
theorem witness_ReadRunsItsPseudocode :
    (idle [.ok [1#8, 0#8, 0#8]]).accepting = true ∧ (idle [.ok [1#8, 0#8, 0#8]]).requesters = []
    ∧ (idle [.ok [1#8, 0#8, 0#8]]).outstanding = none := by decide
theorem witness_ReadReturnsExactlyLengthBytes :
    let s := idle [.ok [0#8, 0#8, 0#8], .ok [], .ok [7#8, 8#8], .ok [0#8, 0#8, 0#8]]
    s.accepting = true ∧ s.requesters = [] ∧ s.outstanding = none
    ∧ ((nextOf (exec (.read 0x50#7 2#16 true true) s)).bind fun s1 => (nextOf (s1.after 4)).map State.responses)
      = some [⟨.eng, ⟨.ok, .bytes [7#8, 8#8]⟩⟩] := by
  decide
theorem witness_ResetIsIdempotent :
    (idle [.ok [], .ok [], .ok [], .ok []]).accepting = true ∧ (idle [.ok [], .ok [], .ok [], .ok []]).requesters = []
    ∧ (idle [.ok [], .ok [], .ok [], .ok []]).env = .oracle ([.ok [], .ok [], .ok [], .ok []] ++ []) := by decide
theorem witness_RequestsFrame :
    (nextOf (exec (.mwrite 7 0#32 [1#8]) (idle []))).isSome = true ∧ (nextOf (exec (.mread 7 0#32 1#16) (idle []))).isSome = true
    ∧ (nextOf (exec (.dump 7 1#16) (idle []))).isSome = true
    ∧ (nextOf (exec (.write 0x50#7 [1#8] true true) (idle []))).isSome = true := by decide
theorem witness_BridgeCommandsFrame :
    (nextOf (exec .resetRd (inPhase .resetRd resetTd [] [.ok []]))).isSome = true
    ∧ (nextOf (exec .getStatus (inPhase .statusCheck readTd [] [.fail]))).isSome = true
    ∧ (nextOf (exec (.i2cRead 0x50#7 true true 1#16) (inPhase .commandDispatch readTd [] []))).isSome = true := by decide
theorem witness_IdealBulkOutStores :
    ({ inPhase .payloadTransfer ⟨.write, 0x50#7, true, true, 3#16⟩ [0xFF#8, 0xFF#8, 1#8] [] with env := .ideal ideal50 }).env
      = .ideal ideal50
    ∧ ideal50.slot = some slotWrite ∧ slotWrite.isRead = false ∧ findDevice ideal50.devices slotWrite.addr = some device50
    ∧ Memory.wf device50.mem = true
    ∧ (nextOf (step { inPhase .payloadTransfer ⟨.write, 0x50#7, true, true, 3#16⟩ [0xFF#8, 0xFF#8, 1#8] [] with
        env := .ideal ideal50 })).isSome = true
    ∧ 0 < [0xFF#8, 0xFF#8, 1#8].length - device50.width.bytes
    ∧ numberOf [0xFF#8, 0xFF#8] + 0 < 256 ^ device50.width.bytes ∧ [0xFF#8].length < device50.width.bytes
    ∧ 256 ^ device50.width.bytes ≤ 0x10000 := by decide
theorem witness_IdealReadsBackWhatWasStored :
    slotWrite.isRead = false ∧ findDevice ideal50.devices slotWrite.addr = some device50 ∧ Memory.wf device50.mem = true
    ∧ 0xFFFF < 256 ^ device50.width.bytes ∧ 0xFFFF + [1#8].length ≤ 256 ^ device50.width.bytes := by decide
theorem witness_ResetIsConstruction :
    State.reset.requesters = [] ∧ ∀ i bi bo : Handle, Discovery.noDevice ≠ .found i bi bo := by
  simp [State.reset]
theorem witness_UnboundAndFailedAcceptNothing :
    ((asked (inPhase .failed resetTd [] []) (.rq 0#32 [])).seq = .failed
      ∧ (nextOf ((asked (inPhase .failed resetTd [] []) (.rq 0#32 [])).after 3)).isSome = true)
    ∧ (nextOf ((asked (inPhase .unbound resetTd [] []) (.rq 0#32 [])).after 3)).isSome = true := by decide

/-- A WRITE that has read a clear status: a state in the middle of an operation that meets both invariants and has a next
state. -/
def midWrite : State :=
  { inPhase .commandDispatch writeTd [0xAA#8] [.ok []] with wire := [(.ctl cwGetStatus, .ok [0#8, 0#8, 0#8])] }

theorem midWrite_inv : midWrite.Inv := by
  constructor <;> simp [midWrite, inPhase, idle, State.reset, writeTd]
theorem midWrite_wireInv : midWrite.WireInv := by
  refine ⟨by decide, ?_, fun _ => by decide⟩
  intro t ht
  simp only [midWrite, inPhase, writeTd, State.phaseTransfer, Option.some.injEq] at ht
  subst ht
  decide
theorem witness_EveryStepKeepsTheRegisterInvariants : midWrite.Inv ∧ (nextOf (step midWrite)).isSome = true :=
  ⟨midWrite_inv, by decide⟩
theorem witness_EveryStepKeepsTheWireDiscipline :
    midWrite.Inv ∧ midWrite.WireInv ∧ (nextOf (step midWrite)).isSome = true :=
  ⟨midWrite_inv, midWrite_wireInv, by decide⟩
theorem witness_EveryStepKeepsDeviceMemoryCanonical :
    (Env.ideal { ideal50 with devices := [{ device50 with mem := [(3, 5#8)] }] }).wf = true
    ∧ (nextOf (step { midWrite with env := .ideal { ideal50 with devices := [{ device50 with mem := [(3, 5#8)] }] } })).isSome
      = true := by decide
theorem witness_InvariantStatesNeverFault : midWrite.Inv ∧ midWrite.requesters = [] := ⟨midWrite_inv, by decide⟩
theorem witness_NoTimeoutByDefault :
    midWrite.timeout = none ∧ midWrite.err ≠ .timeout ∧ (nextOf (step midWrite)).isSome = true := by decide
theorem witness_WaitingRequestsAreNotDropped : (nextOf (step (asked (idle []) (.rq 0#32 [])))).isSome = true := by decide
theorem witness_WireTraceOnlyGrows : (nextOf (step midWrite)).map (fun s => s.wire.length) = some 2 := by decide
theorem witness_ConfigurationIsNeverWritten : (nextOf (step (demandedU 7))).isSome = true := by decide
/-- Address 127 is the last of a view and 128 the first refused, widths 1 and 4 the ends of the range, 0 and 5 just outside it;
view 7 is destroyed while view 8 holds the engine, and not while it holds it itself. -/
theorem witness_ViewsComeAndGo :
    ((idle []).bound = true ∧ (idle []).findView 9 = none 
      ∧ (nextOf ((idle []).createView 9 127 AddrWidth.four.bytes Policies.default)).isSome = true
      ∧ (nextOf ((idle []).createView 9 0 AddrWidth.one.bytes Policies.default)).isSome = true)
    ∧ ((nextOf ((idle []).createView 9 128 4 Policies.default)).isSome = false
      ∧ (nextOf ((idle []).createView 9 127 0 Policies.default)).isSome = false
      ∧ (nextOf ((idle []).createView 9 127 5 Policies.default)).isSome = false)
    ∧ (({ idle [] with hold := some ⟨7, [.reset], none⟩ }).findView 7 = some viewV
      ∧ ({ idle [] with hold := some ⟨7, [.reset], none⟩ }).hold = some ⟨7, [.reset], none⟩)
    ∧ ((idle []).findView 7 = some viewV ∧ (idle []).hold = none)
    ∧ (({ idle [] with hold := some ⟨8, [.reset], none⟩ }).findView 7 = some viewV
      ∧ ({ idle [] with hold := some ⟨8, [.reset], none⟩ }).hold = some ⟨8, [.reset], none⟩ ∧ (8 : ViewId) ≠ 7) := by decide

end Sys2Proof.Tests
end

section
/-! SUPPORT. What one step can do, said once: the instructions the step runs, the transfer of each phase, and the inversion
of `step`. -/

namespace Sys2Proof.Machine

/-! Engine requests -/

/-- The state with an engine request latched: `TD`, for WRITE the payload, and `SEQ` at the operation's first phase
(40_engine_ops.md R141). -/
def State.latch (s : State) (i : Instr) : State :=
  match i with
  | .reset => { s with td := { s.td with op := .reset, len := 0#16 }, seq := .resetRd }
  | .status => { s with td := { s.td with op := .status, len := 0#16 }, seq := .statusCheck }
  | .write a p st sp =>
    { s with td := ⟨.write, a, st, sp, BitVec.ofNat 16 p.length⟩, pbuf := p, seq := .statusCheck }
  | .read a n st sp => { s with td := ⟨.read, a, st, sp, n⟩, seq := .statusCheck }
  | _ => s

/-- Latching a request changes `TD`, `PBUF` and `SEQ` only. -/
theorem State.latch_frame (s : State) (i : Instr) :
    s.latch i = { s with td := (s.latch i).td, pbuf := (s.latch i).pbuf, seq := (s.latch i).seq } := by
  cases i <;> rfl

/-- What is latched does not depend on who holds the engine. -/
theorem State.latch_of_hold (s : State) (H : Option Hold) (i : Instr) :
    { s with hold := H }.latch i = { s.latch i with hold := H } := by
  cases i <;> rfl

/-- An engine request is presented for acceptance if it is well-formed, and refused if not, in every state. -/
theorem exec_engineRequest (s : State) (i : Instr) (hi : i.isEngineRequest = true) :
    exec i s = if i.wellFormed then .next (s.acceptEngine i (s.latch i).td (s.latch i).pbuf (s.latch i).seq)
      else .refused .illFormed := by
  cases i with
  | reset | status | write | read => rfl
  | _ => cases hi

/-- A state that accepts latches the host's well-formed engine request. -/
theorem exec_engineRequest_of_accepting (s : State) (i : Instr) (hi : i.isEngineRequest = true)
    (hw : i.wellFormed = true) (ha : s.accepting = true) : exec i s = .next (s.latch i) := by
  rw [exec_engineRequest s i hi, if_pos hw, State.acceptEngine_of_accepting s i _ _ _ ha, ← State.latch_frame]

/-- A ready engine latches the next well-formed request of the view that holds it. -/
theorem exec_engineRequest_of_hold (s : State) (i : Instr) (h : Hold) (rest : List Instr)
    (hi : i.isEngineRequest = true) (hw : i.wellFormed = true) (hr : s.ready = true) (hh : s.hold = some h)
    (ht : h.todo = i :: rest) : exec i s = .next { s.latch i with hold := some { h with todo := rest } } := by
  rw [exec_engineRequest s i hi, if_pos hw, State.latch_frame s i]
  simp [State.acceptEngine, hr, hh, ht]

/-- An engine request is not accepted when the engine is not ready, or a view holds it and would issue another one. -/
theorem State.acceptEngine_of_not_due (s : State) (i : Instr) (td : Descriptor) (pbuf : List Byte) (first : Phase)
    (hn : s.ready = false ∨ ∃ h, s.hold = some h ∧ h.todo.head? ≠ some i) : s.acceptEngine i td pbuf first = s := by
  rcases s.acceptEngine_cases i td pbuf first with hsame | ⟨hr, hh, -⟩ | ⟨hr, h, rest, hh, ht, -⟩
  · exact hsame
  · simp [hr, hh] at hn
  · simp [hr, hh, ht] at hn

/-! What a taken request or demand does -/

/-- What serving a request or a demand in a state that accepts can do. -/
inductive State.Serves (s : State) : State → Prop where
  /-- an engine request of the host is latched (40_engine_ops.md R141) -/
  | engine (i : Instr) (hi : i.isEngineRequest = true) (hw : i.wellFormed = true) : s.Serves (s.latch i)
  /-- an MWRITE takes hold of the engine (41_memory_device_ops.md R173) -/
  | holdToWrite (V : View) (sa : StartAddr) (data : List Byte) (hf : fitsView V.aw data = true) :
    s.Serves { s with hold := some ⟨V.id, writePlan V sa data, none⟩ }
  /-- an MREAD, or the demand for a DUMP element, takes hold of the engine (R174, R177) -/
  | holdToRead (V : View) (sa : StartAddr) (n : Half) (element : Option StartAddr) :
    s.Serves { s with hold := some ⟨V.id, readPlan V sa n, element⟩ }
  /-- an MWRITE or MREAD fails its range check (R171) -/
  | outOfRange (v : ViewId) : s.Serves (s.raiseRange v)
  /-- a DUMP begins (R177) -/
  | startDump (v : ViewId) (k : Half) :
    s.Serves { s.updateView v (View.startDump k) with err := if k = 0#16 then .ok else s.err }
  /-- the next DUMP element is out of range, which ends the DUMP (R177) -/
  | endDump (v : ViewId) : s.Serves ((s.updateView v View.endDump).raiseRange v)

/-- Outside the control phases only an engine request or a memory-device operation has a next state: a bridge command is
never issued there (42_bridge_commands.md R190). -/
theorem not_bridge_of_exec_next {s t : State} {i : Instr} (hs : s.seq = .idle ∨ s.seq = .unbound ∨ s.seq = .failed)
    (h : exec i s = .next t) :
    i.isEngineRequest = true ∨ (∃ v sa d, i = .mwrite v sa d) ∨ (∃ v sa n, i = .mread v sa n) ∨ ∃ v k, i = .dump v k := by
  have hn : s.seq ≠ .resetRd ∧ s.seq ≠ .resetWr ∧ s.seq ≠ .statusCheck ∧ s.seq ≠ .commandDispatch := by
    rcases hs with hs | hs | hs <;> simp [hs]
  obtain ⟨hrd, hwr, hst, hcd⟩ := hn
  cases i with
  | resetRd => simp [exec, execResetRd, hrd] at h
  | resetWr => simp [exec, execResetWr, hwr] at h
  | getStatus => simp [exec, execGetStatus, hst] at h
  | i2cWrite => simp [exec, execI2cWrite, hcd] at h
  | i2cRead => simp [exec, execI2cRead, hcd] at h
  | reset | status | write | read => exact .inl rfl
  | mwrite v sa d => exact .inr (.inl ⟨v, sa, d, rfl⟩)
  | mread v sa n => exact .inr (.inr (.inl ⟨v, sa, n, rfl⟩))
  | dump v k => exact .inr (.inr (.inr ⟨v, k, rfl⟩))

/-- An engine request with a next state is well-formed. -/
theorem wellFormed_of_exec_next {s t : State} {i : Instr} (hi : i.isEngineRequest = true) (h : exec i s = .next t) :
    i.wellFormed = true := by
  by_contra hw
  simp [exec_engineRequest s i hi, hw] at h

/-- What an MWRITE with a next state does. -/
theorem exec_mwrite_next {s t : State} {v : ViewId} {sa : StartAddr} {d : List Byte} (h : exec (.mwrite v sa d) s = .next t) :
    ∃ V, s.findView v = some V ∧ fitsView V.aw d = true
      ∧ t = if s.accepting then s.takeEngine V sa d.length (writePlan V sa d) else s := by
  rcases hV : s.findView v with _ | V
  · simp [exec, execMwrite, hV] at h
  · cases hf : fitsView V.aw d with
    | false => simp [exec, execMwrite, hV, hf] at h
    | true => exact ⟨V, rfl, hf, by simpa [exec, execMwrite, hV, hf] using h.symm⟩

/-- What an MREAD with a next state does. -/
theorem exec_mread_next {s t : State} {v : ViewId} {sa : StartAddr} {n : Half} (h : exec (.mread v sa n) s = .next t) :
    ∃ V, s.findView v = some V ∧ t = if s.accepting then s.takeEngine V sa n.toNat (readPlan V sa n) else s := by
  rcases hV : s.findView v with _ | V
  · simp [exec, execMread, hV] at h
  · exact ⟨V, rfl, by simpa [exec, execMread, hV] using h.symm⟩

/-- What a DUMP with a next state does. -/
theorem exec_dump_next {s t : State} {v : ViewId} {k : Half} (h : exec (.dump v k) s = .next t) :
    t = if s.accepting then { s.updateView v (View.startDump k) with err := if k = 0#16 then .ok else s.err } else s := by
  rcases hV : s.findView v with _ | V
  · simp [exec, execDump, hV] at h
  · simpa [exec, execDump, hV] using h.symm

/-- Running an instruction in a state that accepts serves a request. -/
theorem serves_of_exec_next {s t : State} {i : Instr} (ha : s.accepting = true) (h : exec i s = .next t) : s.Serves t := by
  obtain ⟨-, -, hidle, -⟩ := (State.accepting_iff s).1 ha
  rcases not_bridge_of_exec_next (.inl hidle) h with hi | ⟨v, sa, d, rfl⟩ | ⟨v, sa, n, rfl⟩ | ⟨v, k, rfl⟩
  · have hw := wellFormed_of_exec_next hi h
    obtain rfl : s.latch i = t := by simpa [exec_engineRequest_of_accepting s i hi hw ha] using h
    exact .engine i hi hw
  · obtain ⟨V, -, hf, rfl⟩ := exec_mwrite_next h
    rw [if_pos ha]
    rcases s.takeEngine_cases V sa d.length (writePlan V sa d) with ⟨-, hto⟩ | ⟨-, hto⟩ <;> rw [hto]
    · exact .holdToWrite V sa d hf
    · exact .outOfRange V.id
  · obtain ⟨V, -, rfl⟩ := exec_mread_next h
    rw [if_pos ha]
    rcases s.takeEngine_cases V sa n.toNat (readPlan V sa n) with ⟨-, hto⟩ | ⟨-, hto⟩ <;> rw [hto]
    · exact .holdToRead V sa n none
    · exact .outOfRange V.id
  · rw [exec_dump_next h, if_pos ha]
    exact .startDump v k

/-- A demand that can be served is one at a view that exists. -/
theorem findView_of_waitingAt_next {s : State} {k : Nat} {v : ViewId} (h : s.waitingAt k = some (.next v)) :
    ∃ V, s.findView v = some V := by
  have hv : s.servable (.next v) = true := by
    unfold State.waitingAt at h
    split at h
    · split at h
      · cases h
        assumption
      · cases h
    · cases h
  rcases hV : s.findView v with _ | V
  · simp [State.servable, hV] at hv
  · exact ⟨V, rfl⟩

/-- Serving the demand for a DUMP element takes hold of the engine to read it, or ends the DUMP. -/
theorem serves_demandElement {s : State} {v : ViewId} {V : View} (hV : s.findView v = some V) :
    s.Serves (s.demandElement v) := by
  cases hr : rangeOk V.aw (lineAddress V.line) Config.dumpBlock with
  | true =>
    simp only [State.demandElement, hV, hr, if_true]
    exact .holdToRead V _ _ _
  | false =>
    simp only [State.demandElement, hV, hr, Bool.false_eq_true, if_false]
    exact .endDump v

/-! The transfer of a phase -/

/-- What the engine does when the transfer of its phase has returned a success with these bytes (40_engine_ops.md R140). -/
def State.phaseDone (s : State) (bytes : List Byte) : State :=
  match s.seq with
  | .resetRd => s.goto .resetWr
  | .resetWr => s.returnOk .none
  | .statusCheck => s.statusAnswered bytes
  | .commandDispatch => s.goto .payloadTransfer
  | .payloadTransfer =>
    match s.td.op with
    | .read => { s with rbuf := bytes }.goto .completionWait
    | _ => s.goto .completionWait
  | .completionWait => { s with cmp := threeBytes bytes }.returnOk s.transactionValue
  | .unbound | .idle | .abort | .failed => s

/-- Performing a transfer depends on what follows a success at the returned state only. -/
theorem State.perform_congr (s : State) (x : Transfer) {k k' : State → List Byte → State}
    (h : ∀ bytes e, k (s.returned x (.ok bytes) e) bytes = k' (s.returned x (.ok bytes) e) bytes) :
    s.perform x k = s.perform x k' := by
  simp only [State.perform, h]

/-- The bridge command of a control phase is the instruction whose control word the phase transfers. -/
theorem phaseTransfer_of_bridgeCommand (s : State) (i : Instr) (h : s.bridgeCommand = some i) :
    ∃ c : ControlWord, encode i = .cw c.bits ∧ s.phaseTransfer = some (.ctl c) := by
  unfold State.bridgeCommand at h
  split at h
  all_goals
    rename_i hs ho
    simp only [Option.some.injEq, reduceCtorEq] at h
  all_goals
    subst h
    exact ⟨_, rfl, by simp only [State.phaseTransfer, hs, ho]⟩

/-- A bridge command that is due performs the transfer of its phase. -/
theorem execResetRd_of_due (s : State) (hs : s.seq = .resetRd) :
    execResetRd s = .next (s.perform (.ctl cwResetRd) State.phaseDone) := by
  rw [execResetRd, if_pos hs]
  exact congrArg _ (s.perform_congr _ fun _ _ => by simp [State.phaseDone, hs])

@[inherit_doc execResetRd_of_due]
theorem execResetWr_of_due (s : State) (hs : s.seq = .resetWr) :
    execResetWr s = .next (s.perform (.ctl cwResetWr) State.phaseDone) := by
  rw [execResetWr, if_pos hs]
  exact congrArg _ (s.perform_congr _ fun _ _ => by simp [State.phaseDone, hs])

@[inherit_doc execResetRd_of_due]
theorem execGetStatus_of_due (s : State) (hs : s.seq = .statusCheck) (ho : s.td.op ≠ .reset) :
    execGetStatus s = .next (s.perform (.ctl cwGetStatus) State.phaseDone) := by
  rw [execGetStatus, if_pos ⟨hs, ho⟩]
  exact congrArg _ (s.perform_congr _ fun _ _ => by simp [State.phaseDone, hs])

@[inherit_doc execResetRd_of_due]
theorem execI2cWrite_of_due (s : State) (hs : s.seq = .commandDispatch) (ho : s.td.op = .write) :
    execI2cWrite s.td.addr s.td.start s.td.stop s.td.len s
      = .next (s.perform (.ctl (cwI2cWrite s.td.addr s.td.start s.td.stop s.td.len)) State.phaseDone) := by
  rw [execI2cWrite, if_pos ⟨hs, by rw [← ho]⟩]
  exact congrArg _ (s.perform_congr _ fun _ _ => by simp [State.phaseDone, hs])

@[inherit_doc execResetRd_of_due]
theorem execI2cRead_of_due (s : State) (hs : s.seq = .commandDispatch) (ho : s.td.op = .read) :
    execI2cRead s.td.addr s.td.start s.td.stop s.td.len s
      = .next (s.perform (.ctl (cwI2cRead s.td.addr s.td.start s.td.stop s.td.len)) State.phaseDone) := by
  rw [execI2cRead, if_pos ⟨hs, by rw [← ho]⟩]
  exact congrArg _ (s.perform_congr _ fun _ _ => by simp [State.phaseDone, hs])

/-- The completion read is the transfer of its phase. -/
theorem completionWait_of_phase (s : State) (hs : s.seq = .completionWait) :
    s.completionWait = s.perform (.int s.ep.interruptIn Config.completionLen) State.phaseDone :=
  s.perform_congr _ fun _ _ => by simp [State.phaseDone, hs, State.transactionValue]

/-- A bridge command that the phase forms performs the transfer of the phase. -/
theorem exec_bridgeCommand (s : State) (i : Instr) (x : Transfer) (hi : s.bridgeCommand = some i)
    (hx : s.phaseTransfer = some x) : exec i s = .next (s.perform x State.phaseDone) := by
  unfold State.bridgeCommand at hi
  split at hi
  all_goals
    rename_i hs ho
    simp only [Option.some.injEq, reduceCtorEq] at hi
  all_goals
    subst hi
    simp only [State.phaseTransfer, hs, ho, Option.some.injEq] at hx
    subst hx
  · exact execResetRd_of_due s hs
  · exact execResetWr_of_due s hs
  · exact execGetStatus_of_due s hs (by simp [ho])
  · exact execGetStatus_of_due s hs (by simp [ho])
  · exact execGetStatus_of_due s hs (by simp [ho])
  · exact execI2cWrite_of_due s hs ho
  · exact execI2cRead_of_due s hs ho

/-- A transfer that no bridge command makes is the bulk transfer or the completion read of a transaction. -/
theorem bulk_of_phaseTransfer {s : State} {x : Transfer} (hi : s.bridgeCommand = none) (hx : s.phaseTransfer = some x) :
    (s.seq = .payloadTransfer ∧ s.td.op = .write ∧ x = .bout s.ep.bulkOut s.pbuf)
      ∨ (s.seq = .payloadTransfer ∧ s.td.op = .read ∧ x = .bin s.ep.bulkIn s.td.len.toNat)
      ∨ (s.seq = .completionWait ∧ (s.td.op = .write ∨ s.td.op = .read)
          ∧ x = .int s.ep.interruptIn Config.completionLen) := by
  unfold State.phaseTransfer at hx
  split at hx <;> rename_i hs ho <;>
    simp only [State.bridgeCommand, hs, ho, Option.some.injEq, reduceCtorEq] at hi hx
  · exact .inl ⟨hs, ho, hx.symm⟩
  · exact .inr (.inl ⟨hs, ho, hx.symm⟩)
  · exact .inr (.inr ⟨hs, .inl ho, hx.symm⟩)
  · exact .inr (.inr ⟨hs, .inr ho, hx.symm⟩)

/-- The step of a phase that has a transfer performs it. -/
theorem step_of_phaseTransfer (s : State) (x : Transfer) (hx : s.phaseTransfer = some x) :
    step s = .next (s.perform x State.phaseDone) := by
  rcases hi : s.bridgeCommand with _ | i
  · rcases bulk_of_phaseTransfer hi hx with ⟨hs, ho, rfl⟩ | ⟨hs, ho, rfl⟩ | ⟨hs, ho, rfl⟩
    · rw [step_of_payload_write s hs ho]
      exact congrArg _ (s.perform_congr _ fun _ _ => by simp [State.phaseDone, hs, ho])
    · rw [step_of_payload_read s hs ho]
      exact congrArg _ (s.perform_congr _ fun _ _ => by simp [State.phaseDone, hs, ho])
    · rw [step_of_completion s hs ho, completionWait_of_phase s hs]
  · rw [step_of_bridgeCommand s i hi, exec_bridgeCommand s i x hi hx]

/-! The inversion of `step` -/

/-- What a step that answers a next state can do. -/
inductive State.StepCase (s : State) : State → Prop where
  /-- the block waits, or what waits is not accepted (10_state.md R47) -/
  | waits : s.StepCase s
  /-- a request or a demand is taken from its port and served (R47) -/
  | serves (k : Nat) (p : Presented) (t : State) (ha : s.accepting = true) (hw : s.waitingAt k = some p)
    (hs : (s.take k).Serves t) : s.StepCase t
  /-- the view that holds the engine issues its next request (R47) -/
  | viewIssues (h : Hold) (i : Instr) (rest : List Instr) (hr : s.ready = true) (hh : s.hold = some h)
    (ht : h.todo = i :: rest) (hi : i.isEngineRequest = true) (hw : i.wellFormed = true) :
    s.StepCase { s.latch i with hold := some { h with todo := rest } }
  /-- the transfer of the phase is performed (40_engine_ops.md R140) -/
  | transfers (x : Transfer) (hx : s.phaseTransfer = some x) : s.StepCase (s.perform x State.phaseDone)
  /-- the operation is aborted (40_engine_ops.md R153) -/
  | aborts (hs : s.seq = .abort) (ho : s.td.op = .write ∨ s.td.op = .read) : s.StepCase (s.raise .busBusy)

/-- An instruction that does not run for an accepting port changes nothing, unless it is the next request of the view that
holds a ready engine. -/
theorem stepCase_of_exec_next {s t : State} {i : Instr} (hs : s.seq = .idle ∨ s.seq = .unbound ∨ s.seq = .failed)
    (ha : s.accepting = false) (h : exec i s = .next t) : s.StepCase t := by
  rcases not_bridge_of_exec_next hs h with hi | ⟨v, sa, d, rfl⟩ | ⟨v, sa, n, rfl⟩ | ⟨v, k, rfl⟩
  · have hw := wellFormed_of_exec_next hi h
    rcases s.acceptEngine_cases i (s.latch i).td (s.latch i).pbuf (s.latch i).seq with
      hsame | ⟨hr, hh, -⟩ | ⟨hr, hold, rest, hh, ht, -⟩
    · rw [exec_engineRequest s i hi, if_pos hw, hsame] at h
      obtain rfl := Host.Outcome.next.inj h
      exact .waits
    · simp [State.accepting, hr, hh] at ha
    · rw [exec_engineRequest_of_hold s i hold rest hi hw hr hh ht] at h
      obtain rfl := Host.Outcome.next.inj h
      exact .viewIssues hold i rest hr hh ht hi hw
  · obtain ⟨V, -, -, rfl⟩ := exec_mwrite_next h
    simpa [ha] using State.StepCase.waits
  · obtain ⟨V, -, rfl⟩ := exec_mread_next h
    simpa [ha] using State.StepCase.waits
  · rw [exec_dump_next h]
    simpa [ha] using State.StepCase.waits

/-- What a step that looks at the ports can do. -/
theorem stepCase_of_fetchPort {s t : State} (hs : s.seq = .idle ∨ s.seq = .unbound ∨ s.seq = .failed)
    (hf : s.fetch = s.fetchPort) (h : step s = .next t) : s.StepCase t := by
  unfold step at h
  rw [hf] at h
  rcases s.fetchPort_cases with hp | ⟨k, v, -, hw, ha, hp⟩ | ⟨k, e, why, -, -, -, hp⟩ | ⟨k, e, i, -, hw, -, hp⟩ <;> rw [hp] at h
  · obtain rfl := Host.Outcome.next.inj h
    exact .waits
  · obtain rfl := Host.Outcome.next.inj h
    obtain ⟨V, hV⟩ := findView_of_waitingAt_next hw
    exact .serves k _ _ ha hw (serves_demandElement (V := V) hV)
  · cases h
  · cases ha : s.accepting with
    | true => exact .serves k _ t ha hw (serves_of_exec_next (s := s.take k) ha (by simpa [ha] using h))
    | false => exact stepCase_of_exec_next hs ha (by simpa [ha] using h)

/-- What a step in a control phase can do: there is a bridge command and it runs. -/
theorem stepCase_of_control {s t : State}
    (hs : s.seq = .resetRd ∨ s.seq = .resetWr ∨ s.seq = .statusCheck ∨ s.seq = .commandDispatch) (h : step s = .next t) :
    s.StepCase t := by
  rcases hi : s.bridgeCommand with _ | i
  · rcases hs with hs | hs | hs | hs <;> simp [step, State.fetch, hs, hi] at h
  · obtain ⟨c, -, hx⟩ := phaseTransfer_of_bridgeCommand s i hi
    rw [step_of_phaseTransfer s _ hx] at h
    obtain rfl := Host.Outcome.next.inj h
    exact .transfers _ hx

/-- What a step in a phase of a transaction can do: it belongs to a WRITE or a READ, and the abort or the transfer runs. -/
theorem stepCase_of_transaction {s t : State}
    (hs : s.seq = .abort ∨ s.seq = .payloadTransfer ∨ s.seq = .completionWait) (h : step s = .next t) : s.StepCase t := by
  have ho : s.td.op = .write ∨ s.td.op = .read := by
    by_contra ho
    rcases hs with hs | hs | hs <;> simp [step, State.fetch, hs, State.inTransaction, ho] at h
  have transfer : (∃ x, s.phaseTransfer = some x) → s.StepCase t := by
    rintro ⟨x, hx⟩
    rw [step_of_phaseTransfer s x hx] at h
    obtain rfl := Host.Outcome.next.inj h
    exact .transfers x hx
  rcases hs with hs | hs | hs
  · rw [step_of_abort s hs ho] at h
    obtain rfl := Host.Outcome.next.inj h
    exact .aborts hs ho
  · exact transfer (by rcases ho with ho | ho <;> simp [State.phaseTransfer, hs, ho])
  · exact transfer (by rcases ho with ho | ho <;> simp [State.phaseTransfer, hs, ho])

/-- The inversion of `step`: every next state is one of these cases. -/
theorem stepCase_of_step {s t : State} (h : step s = .next t) : s.StepCase t := by
  cases hs : s.seq with
  | idle =>
    rcases hh : s.hold with _ | hold
    · exact stepCase_of_fetchPort (.inl hs) (State.fetch_of_ports s (.inl ⟨hs, hh⟩)) h
    · have ha : s.accepting = false := by simp [State.accepting, hh]
      rcases ht : hold.todo with _ | ⟨i, rest⟩
      · obtain rfl : s = t := by simpa [step, State.fetch, hs, hh, ht] using h
        exact .waits
      · exact stepCase_of_exec_next (.inl hs) ha (by simpa [step, State.fetch, hs, hh, ht] using h)
  | unbound => exact stepCase_of_fetchPort (.inr (.inl hs)) (State.fetch_of_ports s (.inr (.inl hs))) h
  | failed => exact stepCase_of_fetchPort (.inr (.inr hs)) (State.fetch_of_ports s (.inr (.inr hs))) h
  | resetRd | resetWr | statusCheck | commandDispatch => exact stepCase_of_control (by simp [hs]) h
  | abort | payloadTransfer | completionWait => exact stepCase_of_transaction (by simp [hs]) h

end Sys2Proof.Machine
end

section
/-! SUPPORT. What no step changes: what waits at the ports while a transfer runs, and the configuration of the engine and of
the views. -/

namespace Sys2Proof.Machine

/-- A view without its DUMP state: its configuration registers (10_state.md R40). -/
def View.config (V : View) : View := { V with line := 0, dump := none }

/-- What is written at construction or when a view is created, and by no step: `EP`, `BOUND`, `XFER_TIMEOUT` and the
configuration registers of the views. -/
def State.config (s : State) : EndpointSet × Bool × Option Nat × List View :=
  (s.ep, s.bound, s.timeout, s.views.map View.config)

@[simp] theorem View.endDump_config (V : View) : V.endDump.config = V.config := rfl
@[simp] theorem View.startDump_config (V : View) (k : Half) : (V.startDump k).config = V.config := rfl
@[simp] theorem View.nextLine_config (V : View) : V.nextLine.config = V.config := by
  simp only [View.nextLine]
  split
  · split <;> rfl
  · rfl

/-- An update of a view's DUMP state is no change of the configuration. -/
theorem State.updateView_config (s : State) (v : ViewId) {f : View → View} (hf : ∀ V, (f V).config = V.config) :
    (s.updateView v f).config = s.config := by
  have hV (V : View) : (if V.id = v then f V else V).config = V.config := by
    split
    · exact hf V
    · rfl
  simp [State.config, Function.comp_def, hV]

@[simp] theorem State.compositeDone_config (s : State) (h : Hold) (v : Value) : (s.compositeDone h v).config = s.config := by
  unfold State.compositeDone
  split
  · rfl
  · exact State.updateView_config { s with hold := none } h.view View.nextLine_config

@[simp] theorem State.compositeFailed_config (s : State) (h : Hold) (c : ResultCode) :
    (s.compositeFailed h c).config = s.config := by
  unfold State.compositeFailed
  split
  · rfl
  · exact State.updateView_config { s with hold := none } h.view View.endDump_config

@[simp] theorem State.viewReceives_config (s : State) (h : Hold) (r : Response) : (s.viewReceives h r).config = s.config := by
  unfold State.viewReceives
  split
  · split
    · exact s.compositeDone_config h r.value
    · rfl
  · exact s.compositeFailed_config h r.code

@[simp] theorem State.endEngine_config (s : State) (p : Phase) (r : Response) : (s.endEngine p r).config = s.config := by
  simp only [State.endEngine]
  split
  · rfl
  · exact State.viewReceives_config _ _ r

@[simp] theorem State.raise_config (s : State) (c : ResultCode) : (s.raise c).config = s.config := by
  cases c <;> exact State.endEngine_config _ _ _

@[simp] theorem State.raise_requesters (s : State) (c : ResultCode) : (s.raise c).requesters = s.requesters := by
  cases c <;> exact State.endEngine_requesters _ _ _

/-- What follows a success goes on in the next phase, or ends the operation. -/
theorem State.phaseDone_cases (s : State) (bytes : List Byte) :
    (∃ p rbuf sts, s.phaseDone bytes = { s with seq := p, rbuf := rbuf, sts := sts })
      ∨ ∃ sts cmp v, s.phaseDone bytes = { s with sts := sts, cmp := cmp }.returnOk v := by
  unfold State.phaseDone
  cases hs : s.seq with
  | resetRd | commandDispatch => exact .inl ⟨_, _, _, rfl⟩
  | resetWr => exact .inr ⟨_, _, _, rfl⟩
  | statusCheck =>
    cases ho : s.td.op with
    | reset => exact .inl ⟨s.seq, s.rbuf, threeBytes bytes, by simp [State.statusAnswered, ho]⟩
    | status => exact .inr ⟨threeBytes bytes, s.cmp, _, by simp only [State.statusAnswered, ho]; rfl⟩
    | write | read => exact .inl ⟨_, s.rbuf, threeBytes bytes, by simp only [State.statusAnswered, ho]; rfl⟩
  | payloadTransfer => cases ho : s.td.op <;> exact .inl ⟨_, _, _, rfl⟩
  | completionWait => exact .inr ⟨_, _, _, rfl⟩
  | unbound | idle | abort | failed => exact .inl ⟨s.seq, s.rbuf, s.sts, rfl⟩

@[simp] theorem State.phaseDone_config (s : State) (bytes : List Byte) : (s.phaseDone bytes).config = s.config := by
  rcases s.phaseDone_cases bytes with ⟨p, rbuf, sts, hto⟩ | ⟨sts, cmp, v, hto⟩ <;> rw [hto]
  · rfl
  · exact State.endEngine_config _ _ _

@[simp] theorem State.phaseDone_requesters (s : State) (bytes : List Byte) :
    (s.phaseDone bytes).requesters = s.requesters := by
  rcases s.phaseDone_cases bytes with ⟨p, rbuf, sts, hto⟩ | ⟨sts, cmp, v, hto⟩ <;> rw [hto]
  exact State.endEngine_requesters _ _ _

/-- Performing the transfer of a phase: it is issued, goes on, or fails for good. -/
theorem State.perform_phaseDone_cases (s : State) (x : Transfer) :
    s.perform x State.phaseDone = s.issue x
      ∨ (∃ bytes e, x.countOk bytes = true
          ∧ s.perform x State.phaseDone = (s.returned x (.ok bytes) e).phaseDone bytes)
      ∨ ∃ r e c, c ≠ .ok ∧ s.perform x State.phaseDone
          = { s.returned x r e with failed := true }.endEngine .failed ⟨c, .none⟩ := by
  rcases s.perform_cases x State.phaseDone with ⟨hto, -⟩ | ⟨bytes, e, -, hc, hto⟩ | ⟨r, e, -, -, hto⟩ | ⟨e, n, -, -, hto⟩
  · exact .inl hto
  · exact .inr (.inl ⟨bytes, e, hc, hto⟩)
  · exact .inr (.inr ⟨r, e, .transportIo, by decide, hto⟩)
  · exact .inr (.inr ⟨.never, e, .timeout, by decide, hto⟩)

@[simp] theorem State.perform_phaseDone_config (s : State) (x : Transfer) :
    (s.perform x State.phaseDone).config = s.config := by
  rcases s.perform_phaseDone_cases x with hto | ⟨bytes, e, -, hto⟩ | ⟨r, e, c, -, hto⟩ <;> rw [hto]
  · rfl
  · exact State.phaseDone_config _ bytes
  · exact State.endEngine_config _ _ _

@[simp] theorem State.perform_phaseDone_requesters (s : State) (x : Transfer) :
    (s.perform x State.phaseDone).requesters = s.requesters := by
  rcases s.perform_phaseDone_cases x with hto | ⟨bytes, e, -, hto⟩ | ⟨r, e, c, -, hto⟩ <;> rw [hto]
  · rfl
  · exact State.phaseDone_requesters _ bytes
  · exact State.endEngine_requesters _ _ _

@[simp] theorem State.latch_config (s : State) (i : Instr) : (s.latch i).config = s.config := by
  cases i <;> rfl

@[simp] theorem State.latch_requesters (s : State) (i : Instr) : (s.latch i).requesters = s.requesters := by
  cases i <;> rfl

/-- Serving a request writes no configuration. -/
theorem State.Serves.config {s t : State} (h : s.Serves t) : t.config = s.config := by
  cases h with
  | engine i => exact s.latch_config i
  | holdToWrite | holdToRead | outOfRange => rfl
  | startDump v k => exact s.updateView_config v fun V => V.startDump_config k
  | endDump v => exact s.updateView_config v View.endDump_config

/-- Serving a request takes nothing from the ports. -/
theorem State.Serves.requesters {s t : State} (h : s.Serves t) : t.requesters = s.requesters := by
  cases h with
  | engine i => exact s.latch_requesters i
  | holdToWrite | holdToRead | outOfRange | startDump | endDump => rfl

/-- No step writes the configuration. -/
theorem State.StepCase.config {s t : State} (h : s.StepCase t) : t.config = s.config := by
  cases h with
  | waits => rfl
  | serves k p t ha hw hs => exact hs.config
  | viewIssues h i => exact s.latch_config i
  | transfers x => exact s.perform_phaseDone_config x
  | aborts => exact s.raise_config .busBusy

/-- Settles O55: every case of a step keeps the configuration. -/
theorem configurationIsNeverWritten : Obligations.ConfigurationIsNeverWritten := by
  intro s t h
  have hc : t.config = s.config := (stepCase_of_step h).config
  have hparts : t.ep = s.ep ∧ t.bound = s.bound ∧ t.timeout = s.timeout
      ∧ t.views.map View.config = s.views.map View.config := by simpa [State.config] using hc
  exact hparts

/-- Settles O53: only a request or demand that is served is taken from its port. -/
theorem waitingRequestsAreNotDropped : Obligations.WaitingRequestsAreNotDropped := by
  intro s t h
  cases stepCase_of_step h with
  | waits => exact .inl rfl
  | serves k p t ha hw hs => exact .inr ⟨ha, k, p, hw, hs.requesters⟩
  | viewIssues h i => exact .inl (s.latch_requesters i)
  | transfers x => exact .inl (s.perform_phaseDone_requesters x)
  | aborts => exact .inl (s.raise_requesters .busBusy)

end Sys2Proof.Machine
end

section
/-! SUPPORT. The register invariants: which updates keep them, and that every step does. -/

namespace Sys2Proof.Machine

/-! The engine requests a view issues -/

/-- An address of `w` bytes has `w` of them. -/
theorem bigEndian_length (w a : Nat) : (bigEndian w a).length = w := by
  induction w with
  | zero => rfl
  | succ w ih => simp [bigEndian, ih]

/-- A width is one of 1 to 4 (10_state.md R40). -/
theorem AddrWidth.bytes_bounds (w : AddrWidth) : 1 ≤ w.bytes ∧ w.bytes ≤ 4 := by
  cases w <;> decide

/-- The plan of an MWRITE whose data fit the view is a well-formed engine request. -/
theorem writePlan_requests (V : View) (sa : StartAddr) (data : List Byte) (hf : fitsView V.aw data = true) :
    ∀ i ∈ writePlan V sa data, i.isEngineRequest = true ∧ i.wellFormed = true := by
  have hlen := (fitsView_iff V.aw data).1 hf
  intro i hi
  obtain rfl := List.mem_singleton.1 hi
  exact ⟨rfl, (wellFormed_write_iff _ _ _ _).2 (by simpa [bigEndian_length] using hlen)⟩

/-- The plan of an MREAD consists of well-formed engine requests. -/
theorem readPlan_requests (V : View) (sa : StartAddr) (n : Half) :
    ∀ i ∈ readPlan V sa n, i.isEngineRequest = true ∧ i.wellFormed = true := by
  have hw := (AddrWidth.bytes_bounds V.aw).2
  intro i hi
  simp only [readPlan, List.mem_cons, List.not_mem_nil, or_false] at hi
  rcases hi with rfl | rfl | rfl
  · exact ⟨rfl, rfl⟩
  · exact ⟨rfl, (wellFormed_write_iff _ _ _ _).2 (by rw [bigEndian_length]; omega)⟩
  · exact ⟨rfl, rfl⟩

/-! Updates that keep the invariants -/

/-- The operations a phase in the middle of an operation belongs to (40_engine_ops.md R140); none for the three phases
between operations. -/
def Phase.belongsTo (op : EngineOp) : Phase → Prop
  | .resetRd | .resetWr => op = .reset
  | .statusCheck => op ≠ .reset
  | .abort | .commandDispatch | .payloadTransfer | .completionWait => op = .write ∨ op = .read
  | .unbound | .idle | .failed => False

/-- A phase with a transfer is one in the middle of its operation. -/
theorem belongsTo_of_phaseTransfer {s : State} {x : Transfer} (hx : s.phaseTransfer = some x) :
    s.seq.belongsTo s.td.op := by
  unfold State.phaseTransfer at hx
  split at hx
  all_goals
    rename_i hs ho
    simp only [Option.some.injEq, reduceCtorEq] at hx
  all_goals simp [hs, ho, Phase.belongsTo]

/-- In the middle of an operation the engine is bound and has not failed. -/
theorem Phase.ne_of_belongsTo {op : EngineOp} {p : Phase} (h : p.belongsTo op) :
    p ≠ .idle ∧ p ≠ .failed ∧ p ≠ .unbound := by
  refine ⟨?_, ?_, ?_⟩ <;> rintro rfl <;> exact h

/-- The engine is bound and has not failed: an operation can begin or go on. -/
def State.Usable (s : State) : Prop := s.seq ≠ .failed ∧ s.seq ≠ .unbound

theorem usable_of_belongsTo {s : State} (h : s.seq.belongsTo s.td.op) : s.Usable :=
  (Phase.ne_of_belongsTo h).2

theorem usable_of_ready {s : State} (h : s.ready = true) : s.Usable := by
  obtain ⟨-, -, hidle⟩ := (State.ready_iff s).1 h
  simp [State.Usable, hidle]

section
variable {s : State}

/-- `FAILED` is 0 in a usable engine. -/
theorem State.Inv.not_failed (hs : s.Inv) (hu : s.Usable) : s.failed ≠ true :=
  fun h => hu.1 (hs.failed_iff.1 h)

/-- `BOUND` is 1 in a usable engine. -/
theorem State.Inv.not_unbound (hs : s.Inv) (hu : s.Usable) : s.bound ≠ false :=
  fun h => hu.2 (hs.unbound_iff.2 h)

/-- No transfer is outstanding in a phase that has none. -/
theorem State.Inv.no_outstanding (hs : s.Inv) (hx : s.phaseTransfer = none) : s.outstanding = none := by
  rcases ho : s.outstanding with _ | x
  · rfl
  · simp [hs.outstanding_phase x ho] at hx

/-- The invariants do not speak of the other registers and ports. -/
theorem State.Inv.frame (hs : s.Inv) (sts cmp : ThreeBytes) (err : ResultCode) (views : List View)
    (requesters : List (List Presented)) (responses : List Delivery) (wire : List (Transfer × Reply))
    (timeout : Option Nat) (env : Env) (grants : Nat) :
    State.Inv { s with
      sts := sts, cmp := cmp, err := err, views := views, requesters := requesters, responses := responses, wire := wire,
      timeout := timeout, env := env, grants := grants } :=
  { hs with outstanding_phase := hs.outstanding_phase }

/-- A transfer that has returned is not outstanding. -/
theorem State.Inv.returned (hs : s.Inv) (x : Transfer) (r : Reply) (e : Env) : (s.returned x r e).Inv :=
  { hs with outstanding_phase := fun _ h => by cases h }

/-- The transfer issued is that of the phase. -/
theorem State.Inv.issue (hs : s.Inv) {x : Transfer} (hx : s.phaseTransfer = some x) : (s.issue x).Inv :=
  { hs with outstanding_phase := fun _ h => by cases h; exact hx }

/-- A usable engine enters a phase of an operation, with `TD`, `PBUF` and `RBUF` in agreement. -/
theorem State.Inv.enter (hs : s.Inv) (hu : s.Usable) (hout : s.outstanding = none) {td : Descriptor} {pbuf rbuf : List Byte}
    {p : Phase} {H : Option Hold} (hp : p.belongsTo td.op) (hlen : td.op = .write → td.len.toNat = pbuf.length)
    (hread : p = .completionWait → td.op = .read → rbuf.length = td.len.toNat)
    (htodo : ∀ h, H = some h → ∀ i ∈ h.todo, Instr.isEngineRequest i = true ∧ i.wellFormed = true) :
    State.Inv { s with td := td, pbuf := pbuf, rbuf := rbuf, seq := p, hold := H } where
  failed_iff := iff_of_false (hs.not_failed hu) (Phase.ne_of_belongsTo hp).2.1
  bound_iff := hs.bound_iff
  unbound_iff := iff_of_false (Phase.ne_of_belongsTo hp).2.2 (hs.not_unbound hu)
  reset_phase := by rintro (rfl | rfl) <;> exact hp
  status_phase := by rintro rfl; exact hp
  transaction_phase := by rintro (rfl | rfl | rfl | rfl) <;> exact hp
  payload_length := hlen
  read_length := hread
  outstanding_phase := fun x hx => by simp [hout] at hx
  hold_idle := fun _ _ hidle => ((Phase.ne_of_belongsTo hp).1 hidle).elim
  hold_usable := fun _ => (Phase.ne_of_belongsTo hp).2
  hold_todo := htodo

/-- The operation in progress goes on in another of its phases. -/
theorem State.Inv.goto (hs : s.Inv) (hu : s.Usable) (hout : s.outstanding = none) {p : Phase} (hp : p.belongsTo s.td.op)
    (hread : p = .completionWait → s.td.op = .read → s.rbuf.length = s.td.len.toNat) : (s.goto p).Inv :=
  hs.enter hu hout hp hs.payload_length hread hs.hold_todo

/-- When an engine operation has ended, nobody holds the engine, or the view that did has more to issue. -/
theorem State.endEngine_hold (s : State) (p : Phase) (r : Response) :
    (s.endEngine p r).hold = none
      ∨ r.code = .ok ∧ (s.endEngine p r).hold = s.hold ∧ ∀ h, s.hold = some h → h.todo ≠ [] := by
  rcases hh : s.hold with _ | h
  · exact .inl (by rw [State.endEngine_of_no_hold s p r hh]; exact hh)
  · by_cases hr : r.code = .ok
    · by_cases ht : h.todo = []
      · left
        simp only [State.endEngine, hh, State.viewReceives, hr, ht, if_true, State.compositeDone]
        split <;> rfl
      · right
        rw [State.endEngine_of_todo s p r h hh ht hr]
        exact ⟨hr, hh, by rintro _ ⟨⟩; exact ht⟩
    · exact .inl (State.endEngine_of_error s p r h hh hr).1

/-- The operation in progress ends and the engine is idle again. -/
theorem State.Inv.endEngine_idle (hs : s.Inv) (hu : s.Usable) (hout : s.outstanding = none) (r : Response) :
    (s.endEngine .idle r).Inv where
  failed_iff := by simpa using hs.not_failed hu
  bound_iff := by simpa using hs.bound_iff
  unbound_iff := by simpa using hs.not_unbound hu
  reset_phase := by simp
  status_phase := by simp
  transaction_phase := by simp
  payload_length := by simpa using hs.payload_length
  read_length := by simp
  outstanding_phase := by simp [hout]
  hold_idle := by
    rcases s.endEngine_hold .idle r with hn | ⟨-, hsame, ht⟩
    · simp [hn]
    · simpa [hsame] using ht
  hold_usable := by simp
  hold_todo := by
    rcases s.endEngine_hold .idle r with hn | ⟨-, hsame, -⟩
    · simp [hn]
    · rw [hsame]
      exact hs.hold_todo

/-- The operation in progress fails for good: `FAILED` is set and nobody holds the engine. -/
theorem State.Inv.endEngine_failed (hs : s.Inv) (hu : s.Usable) (hout : s.outstanding = none) {r : Response}
    (hr : r.code ≠ .ok) : ({ s with failed := true }.endEngine .failed r).Inv :=
  have hhold : ({ s with failed := true }.endEngine .failed r).hold = none :=
    (State.endEngine_hold _ .failed r).resolve_right fun h => hr h.1
  { failed_iff := by simp
    bound_iff := by simpa using hs.bound_iff
    unbound_iff := by simpa using hs.not_unbound hu
    reset_phase := by simp
    status_phase := by simp
    transaction_phase := by simp
    payload_length := by simpa using hs.payload_length
    read_length := by simp
    outstanding_phase := by simp [hout]
    hold_idle := by simp
    hold_usable := by simp [hhold]
    hold_todo := by simp [hhold] }

/-- What a well-formed engine request latches agrees: the phase belongs to `TD.op`, and `TD.len` is the payload's length. -/
theorem State.latch_fits (s : State) {i : Instr} (hi : i.isEngineRequest = true) (hw : i.wellFormed = true) :
    (s.latch i).seq.belongsTo (s.latch i).td.op
      ∧ ((s.latch i).td.op = .write → (s.latch i).td.len.toNat = (s.latch i).pbuf.length)
      ∧ (s.latch i).seq ≠ .completionWait := by
  cases i with
  | reset => exact ⟨rfl, nofun, nofun⟩
  | status | read => exact ⟨nofun, nofun, nofun⟩
  | write a p st sp =>
    have hlen := (wellFormed_write_iff a p st sp).1 hw
    exact ⟨nofun, fun _ => Nat.mod_eq_of_lt (by omega), nofun⟩
  | _ => cases hi

/-- An engine request is latched, by the host or by the view that holds the engine. -/
theorem State.Inv.latch (hs : s.Inv) (hr : s.ready = true) {i : Instr} (hi : i.isEngineRequest = true)
    (hw : i.wellFormed = true) {H : Option Hold}
    (htodo : ∀ h, H = some h → ∀ j ∈ h.todo, Instr.isEngineRequest j = true ∧ j.wellFormed = true) :
    State.Inv { s.latch i with hold := H } := by
  have hu := usable_of_ready hr
  have hout : s.outstanding = none :=
    hs.no_outstanding (by simp [State.phaseTransfer, ((State.ready_iff s).1 hr).2.2])
  obtain ⟨hp, hlen, hne⟩ := s.latch_fits hi hw
  rw [State.latch_frame]
  exact hs.enter hu hout hp hlen (fun h => (hne h).elim) htodo

/-- A view takes hold of a usable engine with well-formed engine requests to issue. -/
theorem State.Inv.takeHold (hs : s.Inv) (hu : s.Usable) {h : Hold} (hne : h.todo ≠ [])
    (htodo : ∀ i ∈ h.todo, Instr.isEngineRequest i = true ∧ i.wellFormed = true) :
    State.Inv { s with hold := some h } :=
  { hs with
    outstanding_phase := hs.outstanding_phase
    hold_idle := by rintro _ ⟨⟩ -; exact hne
    hold_usable := fun _ => hu
    hold_todo := by rintro _ ⟨⟩; exact htodo }

/-- Serving a request in a state that accepts keeps the invariants. -/
theorem State.Serves.inv {t : State} (h : s.Serves t) (hs : s.Inv) (ha : s.accepting = true) : t.Inv := by
  obtain ⟨hb, hf, hidle, hh⟩ := (State.accepting_iff s).1 ha
  have hr : s.ready = true := (State.ready_iff s).2 ⟨hb, hf, hidle⟩
  have hu := usable_of_ready hr
  cases h with
  | engine i hi hw =>
    have hl := hs.latch hr hi hw (H := (s.latch i).hold) (by rw [State.latch_frame]; exact hs.hold_todo)
    exact hl
  | holdToWrite V sa data hfit => exact hs.takeHold hu (by simp [writePlan]) (writePlan_requests V sa data hfit)
  | holdToRead V sa n element => exact hs.takeHold hu (by simp [readPlan]) (readPlan_requests V sa n)
  | outOfRange | startDump | endDump => exact hs.frame ..

/-- A READ's bulk-in that counts as a success brought `TD.len` bytes. -/
theorem countOk_bin {ep : Option Handle} {n : Nat} {bytes : List Byte} (h : (Transfer.bin ep n).countOk bytes = true) :
    bytes.length = n := by
  simpa [Transfer.countOk, Transfer.asked] using h

/-- What follows the success of the phase's transfer keeps the invariants. -/
theorem State.Inv.phaseDone (hs : s.Inv) (hout : s.outstanding = none) {x : Transfer} {bytes : List Byte}
    (hx : s.phaseTransfer = some x) (hc : x.countOk bytes = true) : (s.phaseDone bytes).Inv := by
  have hu := usable_of_belongsTo (belongsTo_of_phaseTransfer hx)
  have hbelongs := belongsTo_of_phaseTransfer hx
  unfold State.phaseDone
  cases hp : s.seq with
  | resetRd => exact hs.goto hu hout (by simpa [hp, Phase.belongsTo] using hbelongs) (by simp)
  | resetWr => exact hs.endEngine_idle hu hout _
  | statusCheck =>
    have hsts : State.Inv { s with sts := threeBytes bytes } := hs.frame ..
    have goes (p : Phase) (hto : p.belongsTo s.td.op) (hne : p ≠ .completionWait) :
        ({ s with sts := threeBytes bytes }.goto p).Inv := hsts.goto hu hout hto fun h => (hne h).elim
    cases ho : s.td.op with
    | reset => simpa [State.statusAnswered, ho] using hsts
    | status =>
      simp only [State.statusAnswered, ho]
      exact hsts.endEngine_idle hu hout _
    | write | read =>
      simp only [State.statusAnswered, ho]
      split <;> exact goes _ (by simp [ho, Phase.belongsTo]) (by simp)
  | commandDispatch => exact hs.goto hu hout (by simpa [hp, Phase.belongsTo] using hbelongs) (by simp)
  | payloadTransfer =>
    have hop : s.td.op = .write ∨ s.td.op = .read := by simpa [hp, Phase.belongsTo] using hbelongs
    rcases hop with ho | ho <;> simp only [ho]
    · exact hs.goto hu hout (by simp [ho, Phase.belongsTo]) (by simp [ho])
    · obtain rfl : Transfer.bin s.ep.bulkIn s.td.len.toNat = x := by simpa [State.phaseTransfer, hp, ho] using hx
      exact hs.enter hu hout (by simp [ho, Phase.belongsTo]) hs.payload_length (fun _ _ => countOk_bin hc) hs.hold_todo
  | completionWait =>
    have hcmp : State.Inv { s with cmp := threeBytes bytes } := hs.frame ..
    exact hcmp.endEngine_idle hu hout _
  | unbound | idle | abort | failed => exact hs

/-- Performing the transfer of the phase keeps the invariants, whatever the environment answers. -/
theorem State.Inv.perform (hs : s.Inv) {x : Transfer} (hx : s.phaseTransfer = some x) :
    (s.perform x State.phaseDone).Inv := by
  have hu := usable_of_belongsTo (belongsTo_of_phaseTransfer hx)
  rcases s.perform_phaseDone_cases x with hto | ⟨bytes, e, hc, hto⟩ | ⟨r, e, c, hcode, hto⟩ <;> rw [hto]
  · exact hs.issue hx
  · exact (hs.returned x (.ok bytes) e).phaseDone rfl hx hc
  · exact (hs.returned x r e).endEngine_failed hu rfl hcode

/-- Every case of a step keeps the invariants. -/
theorem State.StepCase.inv {t : State} (h : s.StepCase t) (hs : s.Inv) : t.Inv := by
  cases h with
  | waits => exact hs
  | serves k p t ha hw hserves =>
    have htake : (s.take k).Inv := hs.frame ..
    exact hserves.inv htake ha
  | viewIssues h i rest hr hh ht hi hw =>
    have hrest : ∀ j ∈ rest, Instr.isEngineRequest j = true ∧ j.wellFormed = true := fun j hj =>
      hs.hold_todo h hh j (ht ▸ List.mem_cons_of_mem i hj)
    exact hs.latch hr hi hw (by rintro _ ⟨⟩; exact hrest)
  | transfers x hx => exact hs.perform hx
  | aborts hp ho =>
    exact hs.endEngine_idle (by simp [State.Usable, hp]) (hs.no_outstanding (by simp [State.phaseTransfer, hp])) _

end

/-- Settles O48: every case that `step` has keeps the invariants. -/
theorem everyStepKeepsTheRegisterInvariants : Obligations.EveryStepKeepsTheRegisterInvariants :=
  fun _ _ hs h => (stepCase_of_step h).inv hs

/-! Construction -/

/-- No transfer has returned and the engine is idle or unbound: the wire discipline holds. -/
theorem wireInv_of_fresh {s : State} (hw : s.wire = []) (hx : s.phaseTransfer = none) : s.WireInv where
  trace := by simp [hw, wireOk]
  phase := by simp [hx]
  alive := by simp [hw]

/-- An engine that nobody holds, with no operation latched and no transfer outstanding, meets the invariants when `BOUND`
agrees with `EP` and with `SEQ`. -/
theorem inv_of_fresh {s : State} (hf : s.failed = false) (hseq : s.seq = if s.bound then .idle else .unbound)
    (hb : s.bound = true ↔ s.ep.interruptIn ≠ none ∧ s.ep.bulkIn ≠ none ∧ s.ep.bulkOut ≠ none)
    (ho : s.td.op = .reset) (hout : s.outstanding = none) (hh : s.hold = none) : s.Inv where
  failed_iff := by cases h : s.bound <;> simp [hf, hseq, h]
  bound_iff := hb
  unbound_iff := by cases h : s.bound <;> simp [hseq, h]
  reset_phase := fun _ => ho
  status_phase := by cases h : s.bound <;> simp [hseq, h]
  transaction_phase := by cases h : s.bound <;> simp [hseq, h]
  payload_length := by simp [ho]
  read_length := by simp [ho]
  outstanding_phase := by simp [hout]
  hold_idle := by simp [hh]
  hold_usable := by simp [hh]
  hold_todo := by simp [hh]

/-- Construction leaves the engine idle and bound to three handles, or unbound with none. -/
theorem construct_inv (s : State) (d : Discovery) : (s.construct d).Inv :=
  inv_of_fresh rfl (by cases d <;> rfl) (by cases d <;> simp [State.construct]) rfl rfl rfl

/-- Construction starts with an empty wire. -/
theorem construct_wireInv (s : State) (d : Discovery) : (s.construct d).WireInv :=
  wireInv_of_fresh rfl (by cases d <;> rfl)

/-- Settles O47: reset is a construction with the handles 1, 2, 3. -/
theorem resetMeetsTheInvariants : Obligations.ResetMeetsTheInvariants := by
  have hreset : State.reset.construct (.found 1 2 3) = State.reset := rfl
  exact ⟨hreset ▸ construct_inv State.reset (.found 1 2 3), hreset ▸ construct_wireInv State.reset (.found 1 2 3), rfl,
    fun s d => ⟨construct_inv s d, construct_wireInv s d⟩⟩

end Sys2Proof.Machine
end

section
/-! Which instruction a step runs, which requests wait, and what construction and the directives `VIEW` do. -/

namespace Sys2Proof.Machine

/-- In a state that accepts, the request at the port that is served runs, taken from its port (10_state.md R47). -/
theorem step_of_served {s : State} {k : Nat} {e : Encoded} {i : Instr} (ha : s.accepting = true) (hk : s.chosen = some k)
    (hw : s.waitingAt k = some (.request e)) (hd : decode e = .instr i) : step s = exec i (s.take k) := by
  obtain ⟨-, -, hidle, hh⟩ := (State.accepting_iff s).1 ha
  have hf : s.fetch = .run i (s.take k) := by
    rw [State.fetch_of_ports s (.inl ⟨hidle, hh⟩)]
    simp [State.fetchPort, hk, hw, hd, ha]
  simp only [step, hf]

/-- In `IDLE` the next request of the view that holds the engine runs (R47). -/
theorem step_of_hold {s : State} {h : Hold} {i : Instr} {rest : List Instr} (hs : s.seq = .idle) (hh : s.hold = some h)
    (ht : h.todo = i :: rest) : step s = exec i s := by
  simp [step, State.fetch, hs, hh, ht]

/-- Settles O10: at a port, for the view that holds the engine, and in a control phase. -/
theorem stepRunsTheInstruction : Obligations.StepRunsTheInstruction :=
  ⟨fun _ _ _ _ => step_of_served, fun _ _ _ _ => step_of_hold,
    fun s i hi => ⟨step_of_bridgeCommand s i hi, phaseTransfer_of_bridgeCommand s i hi⟩⟩

/-- Settles O12: acceptance of an engine request, and of a memory-device request, is guarded as 10_state.md R47 says. -/
theorem requestNotAcceptedWaits : Obligations.RequestNotAcceptedWaits := by
  refine ⟨fun s i hi hw hn => ?_, fun s V v sa d hV hf ha => ?_, fun s V v sa n hV ha => ?_, fun s V v k hV ha => ?_⟩
  · rw [exec_engineRequest s i hi, if_pos hw, State.acceptEngine_of_not_due s i _ _ _ hn]
  · simp [exec, execMwrite, hV, hf, ha]
  · simp [exec, execMread, hV, ha]
  · simp [exec, execDump, hV, ha]

/-- Settles O15: latching does not depend on who holds the engine. -/
theorem viewRequestIsAccepted : Obligations.ViewRequestIsAccepted := by
  intro s t h i rest hr hh ht hi hexec
  have hw := wellFormed_of_exec_next hi hexec
  have haccepts : { s with hold := none }.accepting = true :=
    (State.accepting_iff _).2 (by simpa [and_assoc] using (State.ready_iff s).1 hr)
  rw [exec_engineRequest_of_accepting _ i hi hw haccepts, State.latch_of_hold] at hexec
  obtain rfl := Host.Outcome.next.inj hexec
  exact exec_engineRequest_of_hold s i h rest hi hw hr hh ht

/-- An engine that nobody holds and nobody waits for waits too. -/
theorem step_of_quiet {s : State} (h : s.seq = .idle ∧ s.hold = none ∨ s.seq = .unbound ∨ s.seq = .failed)
    (hr : s.requesters = []) : step s = .next s := by
  simp [step, State.fetch_of_ports s h, State.fetchPort_of_no_requester s hr]

/-- Settles O45: the values are those of construction, and the state is one that waits. -/
theorem resetIsConstruction : Obligations.ResetIsConstruction := by
  refine ⟨fun s i bi bo => ?_, fun s d hd => ?_, by decide⟩
  · exact ⟨rfl, rfl, rfl, rfl, rfl, rfl, rfl, rfl, rfl, rfl,
      step_of_quiet (s := s.construct (.found i bi bo)) (.inl ⟨rfl, rfl⟩)⟩
  · have hseq : (s.construct d).seq = .unbound := by
      cases d with
      | found i bi bo => exact absurd rfl (hd i bi bo)
      | _ => rfl
    have hbound : (s.construct d).bound = false := by
      cases d with
      | found i bi bo => exact absurd rfl (hd i bi bo)
      | _ => rfl
    exact ⟨hbound, hseq, rfl, rfl, rfl, rfl, rfl, rfl, step_of_quiet (.inr (.inl hseq)), by rintro rfl; rfl,
      by rintro rfl; rfl, by rintro rfl; rfl⟩

/-- The width made from a number is the one with that many bytes. -/
theorem AddrWidth.ofNat?_eq_some_iff {n : Nat} {w : AddrWidth} : AddrWidth.ofNat? n = some w ↔ n = w.bytes := by
  constructor
  · intro h
    unfold AddrWidth.ofNat? at h
    split at h <;> cases h <;> rfl
  · rintro rfl
    cases w <;> rfl

/-- Creation with an illegal width or address is refused. -/
theorem createView_refused (s : State) {id dev aw : Nat} (p : Policies) (h : aw = 0 ∨ 4 < aw ∨ 127 < dev) :
    s.createView id dev aw p = .refused .notAView := by
  rcases hw : AddrWidth.ofNat? aw with _ | w
  · simp [State.createView, hw]
  · have hbytes := AddrWidth.ofNat?_eq_some_iff.1 hw
    have hbounds := AddrWidth.bytes_bounds w
    have hdev : ¬ dev < 128 := by omega
    simp [State.createView, hw, hdev]

/-- A view that does not hold the engine itself can be destroyed. -/
theorem destroyView_of_not_holding {s : State} {V : View} {id : Nat} (hV : s.findView id = some V)
    (hn : ∀ h, s.hold = some h → h.view ≠ id) :
    s.destroyView id = .next { s with views := s.views.filter fun W => W.id ≠ id } := by
  rcases hh : s.hold with _ | h
  · simp [State.destroyView, hV, hh]
  · simp [State.destroyView, hV, hh, hn h hh]

/-- Settles O56: creation and destruction, clause by clause. -/
theorem viewsComeAndGo : Obligations.ViewsComeAndGo := by
  refine ⟨fun s id dev aw w p hb hV hdev haw => ?_, fun s _ _ _ p => createView_refused s p, rfl,
    fun s V id h hV hh hid => ?_, fun _ _ _ => destroyView_of_not_holding⟩
  · simp [State.createView, AddrWidth.ofNat?_eq_some_iff.2 haw, hdev, hb, hV, View.create]
  · simp [State.destroyView, hV, hh, hid]

end Sys2Proof.Machine
end

section
/-! What a step does to the environment, the wire trace and the responses. -/

namespace Sys2Proof.Machine

/-! The environment and the wire trace -/

/-- What follows a success leaves the environment and the wire trace to the return of the transfer. -/
theorem State.phaseDone_env_wire (s : State) (bytes : List Byte) :
    (s.phaseDone bytes).env = s.env ∧ (s.phaseDone bytes).wire = s.wire := by
  rcases s.phaseDone_cases bytes with ⟨p, rbuf, sts, hto⟩ | ⟨sts, cmp, v, hto⟩ <;> rw [hto]
  · exact ⟨rfl, rfl⟩
  · exact ⟨State.endEngine_env _ _ _, State.endEngine_wire _ _ _⟩

@[simp] theorem State.raise_env (s : State) (c : ResultCode) : (s.raise c).env = s.env := by
  cases c <;> exact State.endEngine_env _ _ _

@[simp] theorem State.raise_wire (s : State) (c : ResultCode) : (s.raise c).wire = s.wire := by
  cases c <;> exact State.endEngine_wire _ _ _

/-- The environment and the wire trace go from `s` to `t` without a transfer, or by the return of the transfer `x`. -/
def State.Records (s t : State) (x : Transfer) : Prop :=
  (t.env = s.env ∧ t.wire = s.wire)
    ∨ ∃ r e, s.env.answer x = some (r, e) ∧ t.env = e ∧ t.wire = s.wire ++ [(x, r)]

/-- Performing the transfer of a phase issues it, or takes one answer of the environment and records it. -/
theorem State.perform_records (s : State) (x : Transfer) : s.Records (s.perform x State.phaseDone) x := by
  rcases s.perform_cases x State.phaseDone with
    ⟨hto, -⟩ | ⟨bytes, e, hans, -, hto⟩ | ⟨r, e, hans, -, hto⟩ | ⟨e, n, hans, -, hto⟩ <;> rw [hto]
  · exact .inl ⟨rfl, rfl⟩
  · exact .inr ⟨_, e, hans, State.phaseDone_env_wire _ bytes⟩
  · exact .inr ⟨r, e, hans, State.raise_env _ _, State.raise_wire _ _⟩
  · exact .inr ⟨.never, e, hans, State.raise_env _ _, State.raise_wire _ _⟩

/-- Latching a request performs no transfer. -/
theorem State.latch_env_wire (s : State) (i : Instr) : (s.latch i).env = s.env ∧ (s.latch i).wire = s.wire := by
  rw [s.latch_frame i]
  exact ⟨rfl, rfl⟩

/-- Serving a request performs no transfer. -/
theorem State.Serves.env_wire {s t : State} (h : s.Serves t) : t.env = s.env ∧ t.wire = s.wire := by
  cases h with
  | engine i => exact s.latch_env_wire i
  | holdToWrite | holdToRead | outOfRange | startDump | endDump => exact ⟨rfl, rfl⟩

/-- A step leaves the environment and the wire trace as they are, or performs the transfer of its phase. -/
theorem State.StepCase.env_wire {s t : State} (h : s.StepCase t) :
    (t.env = s.env ∧ t.wire = s.wire) ∨ ∃ x, s.phaseTransfer = some x ∧ s.Records t x := by
  cases h with
  | waits => exact .inl ⟨rfl, rfl⟩
  | serves k p t ha hw hs => exact .inl hs.env_wire
  | viewIssues h i => exact .inl (s.latch_env_wire i)
  | transfers x hx => exact .inr ⟨x, hx, s.perform_records x⟩
  | aborts => exact .inl ⟨s.raise_env .busBusy, s.raise_wire .busBusy⟩

/-- Settles O50: the environment changes only by its answer to a transfer, which keeps the canonical form. -/
theorem everyStepKeepsDeviceMemoryCanonical : Obligations.EveryStepKeepsDeviceMemoryCanonical := by
  intro s t hwf h
  rcases (stepCase_of_step h).env_wire with ⟨hsame, -⟩ | ⟨x, -, ⟨hsame, -⟩ | ⟨r, e, hans, he, -⟩⟩
  · rwa [hsame]
  · rwa [hsame]
  · rw [he]
    exact Env.answer_wf s.env x (r, e) hwf hans

/-! The responses -/

/-- The response of a composite joins those delivered. -/
theorem State.viewReceives_responses (s : State) (h : Hold) (r : Response) :
    s.responses <+: (s.viewReceives h r).responses := by
  unfold State.viewReceives
  split
  · split
    · unfold State.compositeDone
      split <;> exact List.prefix_append _ _
    · exact List.prefix_rfl
  · unfold State.compositeFailed
    split <;> exact List.prefix_append _ _

/-- The response of an engine operation joins those delivered. -/
theorem State.endEngine_responses (s : State) (p : Phase) (r : Response) :
    s.responses <+: (s.endEngine p r).responses := by
  simp only [State.endEngine]
  split
  · exact List.prefix_append _ _
  · next h hh =>
    exact (List.prefix_append _ _).trans
      (State.viewReceives_responses ({ s with seq := p, err := r.code }.deliver (.engToView h.view) r) h r)

/-- What follows a success delivers the response of an operation, or none. -/
theorem State.phaseDone_responses (s : State) (bytes : List Byte) :
    s.responses <+: (s.phaseDone bytes).responses := by
  rcases s.phaseDone_cases bytes with ⟨p, rbuf, sts, hto⟩ | ⟨sts, cmp, v, hto⟩ <;> rw [hto]
  exact State.endEngine_responses { s with sts := sts, cmp := cmp } .idle ⟨.ok, v⟩

/-- Performing the transfer of a phase takes no response back. -/
theorem State.perform_phaseDone_responses (s : State) (x : Transfer) :
    s.responses <+: (s.perform x State.phaseDone).responses := by
  rcases s.perform_phaseDone_cases x with hto | ⟨bytes, e, -, hto⟩ | ⟨r, e, c, -, hto⟩ <;> rw [hto]
  · exact List.prefix_rfl
  · exact State.phaseDone_responses (s.returned x (.ok bytes) e) bytes
  · exact State.endEngine_responses { s.returned x r e with failed := true } .failed _

/-- Latching a request delivers no response. -/
theorem State.latch_responses (s : State) (i : Instr) : (s.latch i).responses = s.responses := by
  rw [s.latch_frame i]

/-- Serving a request delivers the response of a range check that fails, or none. -/
theorem State.Serves.responses {s t : State} (h : s.Serves t) : s.responses <+: t.responses := by
  cases h with
  | engine i => rw [s.latch_responses i]
  | holdToWrite | holdToRead | startDump => exact List.prefix_rfl
  | outOfRange | endDump => exact List.prefix_append _ _

/-- No step takes a response back. -/
theorem State.StepCase.responses {s t : State} (h : s.StepCase t) : s.responses <+: t.responses := by
  cases h with
  | waits => exact List.prefix_rfl
  | serves k p t ha hw hs => exact hs.responses
  | viewIssues h i => simp [s.latch_responses i]
  | transfers x => exact s.perform_phaseDone_responses x
  | aborts => exact s.endEngine_responses .idle _

/-- Settles O54: the wire trace grows by what `State.Records` says, the responses by what the operation that ends
delivers. -/
theorem wireTraceOnlyGrows : Obligations.WireTraceOnlyGrows := by
  intro s t h
  obtain ⟨rs, hrs⟩ := (stepCase_of_step h).responses
  refine ⟨?_, rs, hrs.symm⟩
  rcases (stepCase_of_step h).env_wire with ⟨-, hsame⟩ | ⟨x, hx, ⟨-, hsame⟩ | ⟨r, e, -, -, hwire⟩⟩
  · exact .inl hsame
  · exact .inl hsame
  · exact .inr ⟨x, r, hx, hwire⟩

end Sys2Proof.Machine
end

section
/-! What `ENV_IDEAL` stores at a bulk-out and answers at a bulk-in (20_memory.md R87). -/

namespace Sys2Proof.Machine

/-! The number of an address -/

/-- Reading on from a number, the bytes of an address append its digits to base 256. -/
theorem foldl_bigEndian (w a acc : Nat) :
    (bigEndian w a).foldl (fun acc b => acc * 256 + b.toNat) acc = acc * 256 ^ w + a % 256 ^ w := by
  induction w generalizing acc with
  | zero => simp [bigEndian, Nat.mod_one]
  | succ w ih =>
    rw [bigEndian, List.foldl_cons, ih, BitVec.toNat_ofNat, pow_succ 256 w, Nat.mod_mul]
    ring

/-- An address that fits is the number of its bytes. -/
theorem numberOf_bigEndian {w a : Nat} (h : a < 256 ^ w) : numberOf (bigEndian w a) = a := by
  rw [numberOf, foldl_bigEndian, Nat.mod_eq_of_lt h, Nat.zero_mul, Nat.zero_add]

/-! Reading a run -/

/-- A run below the limit whose bytes are known reads as those bytes. -/
theorem Memory.readRun_eq (m : Memory) (limit a k : Nat) (bs : List Byte) (hl : a + bs.length ≤ limit)
    (h : ∀ i, i < bs.length → Memory.read m (a + i) = bs.getD i 0#8) : Memory.readRun m limit a k bs.length = bs := by
  induction bs generalizing a k with
  | nil => rfl
  | cons b bs ih =>
    simp only [List.length_cons] at hl h
    have hhead : Memory.read m a = b := by simpa using h 0 (by omega)
    have htail : Memory.readRun m limit (a + 1) (k + 1) bs.length = bs :=
      ih (a + 1) (k + 1) (by omega) fun i hi => by
        simpa [Nat.add_right_comm, Nat.add_assoc] using h (i + 1) (by omega)
    rw [List.length_cons, Memory.readRun, if_pos (by omega), hhead, htail]

/-! A device -/

/-- The device found at an address has that address. -/
theorem findDevice_addr {ds : List Device} {a : DevAddr} {d : Device} (h : findDevice ds a = some d) : d.addr = a := by
  simpa using List.find?_some h

/-- Storing changes the memory and the pointer of a device only. -/
theorem Device.store_frame (d : Device) (p : List Byte) : (d.store p).addr = d.addr ∧ (d.store p).width = d.width := by
  unfold Device.store
  split <;> exact ⟨rfl, rfl⟩

/-- A payload that begins with an address that fits stores what follows it there and leaves the pointer behind it. -/
theorem Device.store_bigEndian (d : Device) {a : Nat} (data : List Byte) (ha : a < 256 ^ d.width.bytes) :
    d.store (bigEndian d.width.bytes a ++ data)
      = { d with mem := Memory.writeRun (spaceSize d.width) d.mem a data, ptr := a + data.length } := by
  have hlen := bigEndian_length d.width.bytes a
  simp [Device.store, hlen, List.take_left' hlen, List.drop_left' hlen, numberOf_bigEndian ha]

/-- The bytes after the address stand at the address, one on for each, as far as the space goes. -/
theorem Device.read_store_same (d : Device) {p : List Byte} (hwf : Memory.wf d.mem = true)
    (hp : d.width.bytes ≤ p.length) {i : Nat} (hi : i < p.length - d.width.bytes)
    (hl : numberOf (p.take d.width.bytes) + i < 256 ^ d.width.bytes) :
    Memory.read (d.store p).mem (numberOf (p.take d.width.bytes) + i) = p.getD (d.width.bytes + i) 0#8 := by
  have hrest : i < (p.drop d.width.bytes).length := by rwa [List.length_drop]
  simp only [Device.store, if_pos hp]
  calc
    _ = (p.drop d.width.bytes).getD i 0#8 := Memory.read_writeRun_same _ _ _ _ hwf i hrest hl
    _ = p.getD (d.width.bytes + i) 0#8 := by simp

/-- Every byte outside the run, or at or above the size of the space, reads as before; and every byte after a payload
shorter than an address. -/
theorem Device.read_store_other (d : Device) (p : List Byte) (a : Nat)
    (h : p.length < d.width.bytes ∨ a < numberOf (p.take d.width.bytes)
      ∨ numberOf (p.take d.width.bytes) + (p.length - d.width.bytes) ≤ a ∨ 256 ^ d.width.bytes ≤ a) :
    Memory.read (d.store p).mem a = Memory.read d.mem a := by
  by_cases hp : d.width.bytes ≤ p.length
  · simp only [Device.store, if_pos hp]
    rcases h with hshort | hbelow | habove | hbeyond
    · omega
    · exact Memory.read_writeRun_other _ _ _ _ _ (.inl hbelow)
    · exact Memory.read_writeRun_other _ _ _ _ _ (.inr (by rwa [List.length_drop]))
    · exact Memory.read_writeRun_beyond _ _ _ _ _ hbeyond
  · rw [Device.store, if_neg hp]

/-! The adapter -/

/-- A bulk-out after a dispatched write to a device stores its payload there, and finds every other device as it was. -/
theorem IdealAdapter.findDevice_bulkOut {x : IdealAdapter} {c : SlotEntry} {d : Device} (hslot : x.slot = some c)
    (hw : c.isRead = false) (hd : findDevice x.devices c.addr = some d) (p : List Byte) (dev : DevAddr) :
    findDevice (x.bulkOut p).devices dev = if dev = c.addr then some (d.store p) else findDevice x.devices dev := by
  have haddr : (d.store p).addr = c.addr := (d.store_frame p).1.trans (findDevice_addr hd)
  simp only [IdealAdapter.bulkOut, hslot, hw, hd, Bool.false_eq_true, if_false]
  split
  · next hdev =>
    rw [hdev, ← haddr]
    exact findDevice_putDevice_same x.devices d (d.store p) (haddr ▸ hd)
  · next hdev => exact findDevice_putDevice_other x.devices (d.store p) dev (haddr ▸ hdev)

/-- A bulk-in after a dispatched read answers the run at the device's pointer. -/
theorem IdealAdapter.bulkIn_bytes {x : IdealAdapter} {c : SlotEntry} {d : Device} (hslot : x.slot = some c)
    (hr : c.isRead = true) (hd : findDevice x.devices c.addr = some d) (n : Nat) :
    (x.bulkIn n).1 = Memory.readRun d.mem (spaceSize d.width) d.ptr x.free n := by
  simp [IdealAdapter.bulkIn, hslot, hr, hd]

/-- What a bulk-out of an address and data leaves at the device. -/
theorem IdealAdapter.findDevice_bulkOut_bigEndian {x : IdealAdapter} {c : SlotEntry} {d : Device} {a : Nat}
    (hslot : x.slot = some c) (hw : c.isRead = false) (hd : findDevice x.devices c.addr = some d)
    (ha : a < 256 ^ d.width.bytes) (data : List Byte) :
    findDevice (x.bulkOut (bigEndian d.width.bytes a ++ data)).devices c.addr
      = some { d with mem := Memory.writeRun (spaceSize d.width) d.mem a data, ptr := a + data.length } := by
  rw [IdealAdapter.findDevice_bulkOut hslot hw hd, if_pos rfl, d.store_bigEndian data ha]

/-- Settles O44: the first bulk-out stores the data, the second sets the pointer back to its first byte. -/
theorem idealReadsBackWhatWasStored : Obligations.IdealReadsBackWhatWasStored := by
  intro x d a data c hc hd hwf ha hfit y z
  have hy := IdealAdapter.findDevice_bulkOut_bigEndian (x := { x with slot := some c }) rfl hc hd ha data
  have hz := IdealAdapter.findDevice_bulkOut_bigEndian (x := { y with slot := some c }) rfl hc hy ha []
  rw [List.append_nil] at hz
  rw [IdealAdapter.bulkIn_bytes (x := { z with slot := some { c with isRead := true } }) rfl rfl hz]
  exact Memory.readRun_eq _ _ _ _ data hfit fun i hi =>
    Memory.read_writeRun_same _ _ _ _ hwf i hi (lt_of_lt_of_le (Nat.add_lt_add_left hi a) hfit)

/-! The step of a WRITE's bulk-out -/

/-- Under `ENV_IDEAL` the bulk-out of a WRITE succeeds, and the environment is the adapter after it. -/
theorem env_of_payload_write_ideal {s t : State} {x : IdealAdapter} (henv : s.env = .ideal x)
    (hs : s.seq = .payloadTransfer) (ho : s.td.op = .write) (h : step s = .next t) :
    t.env = .ideal (x.bulkOut s.pbuf) := by
  have hans : s.env.answer (.bout s.ep.bulkOut s.pbuf) = some (.ok [], .ideal (x.bulkOut s.pbuf)) := by
    rw [henv]
    rfl
  rw [step_of_payload_write s hs ho, State.perform_of_ok s _ _ _ _ hans rfl] at h
  obtain rfl := Host.Outcome.next.inj h
  rfl

/-- Settles O43: the device found at the address after the step is the one that stored the payload. -/
theorem idealBulkOutStores : Obligations.IdealBulkOutStores := by
  intro s t x d c henv hs ho hslot hc hd hwf h
  have hfind := IdealAdapter.findDevice_bulkOut hslot hc hd s.pbuf
  rw [env_of_payload_write_ideal henv hs ho h, henv]
  refine ⟨fun hp i hi hl => ?_, fun dev a ha => ?_⟩
  · simp [Env.readByte, hfind, d.read_store_same hwf hp hi hl]
  · by_cases hdev : dev = c.addr
    · simp [Env.readByte, hfind, hdev, hd, d.read_store_other s.pbuf a (ha hdev)]
    · simp [Env.readByte, hfind, hdev]

end Sys2Proof.Machine
end

section
/-! Masks as fields of a word, and the value field (30_encoding.md R104 to R107). -/

namespace Sys2Proof

/-! Masks and fields -/

/-- A word masked by one field is that field's bits in place. -/
theorem and_field_allOnes_eq_iff {N lo n : Nat} (h : lo + n ≤ N) (w : BitVec N) (v : BitVec n) :
    w &&& field N lo (BitVec.allOnes n) = field N lo v ↔ w.extractLsb' lo n = v := by
  simp only [BitVec.eq_of_getLsbD_eq_iff, BitVec.getLsbD_and, getLsbD_field, BitVec.getLsbD_allOnes,
    BitVec.getLsbD_extractLsb']
  constructor
  · intro he j hj
    have hb := he (lo + j) (by omega)
    simpa [hj, show lo + j < N by omega] using hb
  · intro he j hj
    by_cases hlo : lo ≤ j
    · by_cases hn : j - lo < n
      · rw [← he (j - lo) hn, Nat.add_sub_cancel' hlo]
        simp [hlo, hj, hn]
      · simp [hn, hlo, hj, BitVec.getLsbD_of_ge v (j - lo) (Nat.le_of_not_lt hn)]
    · simp [hlo]

/-- A field's bits lie under its mask. -/
theorem field_and_field_allOnes (N lo : Nat) {n : Nat} (v : BitVec n) :
    field N lo v &&& field N lo (BitVec.allOnes n) = field N lo v := by
  apply BitVec.eq_of_getLsbD_eq
  intro j hj
  simp only [BitVec.getLsbD_and, getLsbD_field, BitVec.getLsbD_allOnes]
  by_cases hn : j - lo < n
  · simp [hn]
    tauto
  · simp [BitVec.getLsbD_of_ge v (j - lo) (Nat.le_of_not_lt hn)]

/-- Under a mask of two disjoint parts a word shows bits of the first part alone when it shows them there and none under
the second. -/
theorem and_or_eq_iff {N : Nat} {m m' v : BitVec N} (hm : m &&& m' = 0#N) (hv : v &&& m = v) (w : BitVec N) :
    w &&& (m ||| m') = v ↔ w &&& m = v ∧ w &&& m' = 0#N := by
  have bitwise : ∀ w m m' v : Bool, (m && m') = false → (v && m) = v →
      ((w && (m || m')) = v ↔ (w && m) = v ∧ (w && m') = false) := by decide
  simp only [BitVec.eq_of_getLsbD_eq_iff, BitVec.getLsbD_and, BitVec.getLsbD_or, BitVec.getLsbD_zero] at hm hv ⊢
  simp only [← forall_and]
  exact forall₂_congr fun j hj => bitwise _ _ _ _ (hm j hj) (hv j hj)

/-- A mask made of a field and of bits outside it shows the field alone when the field is as given and the other bits are
clear. -/
theorem and_field_or_eq_field_iff {N lo n : Nat} {m : BitVec N} (h : lo + n ≤ N)
    (hm : field N lo (BitVec.allOnes n) &&& m = 0#N) (w : BitVec N) (v : BitVec n) :
    w &&& (field N lo (BitVec.allOnes n) ||| m) = field N lo v ↔ w.extractLsb' lo n = v ∧ w &&& m = 0#N := by
  rw [and_or_eq_iff hm (field_and_field_allOnes N lo v), and_field_allOnes_eq_iff h]

/-- The bits of a field that is zero are clear. -/
theorem getElem_of_extractLsb'_eq_zero {N lo n : Nat} {w : BitVec N} (h : w.extractLsb' lo n = 0#n) {i : Nat}
    (hi : i < N) (hlo : lo ≤ i) (hn : i < lo + n) : w[i] = false := by
  have hb := congrArg (·.getLsbD (i - lo)) h
  simpa [show i - lo < n by omega, Nat.add_sub_cancel' hlo, hi] using hb

/-! The value field (30_encoding.md R104 to R107) -/

/-- `pack` with its shifts as numbers (R106). -/
theorem pack_eq_or (a : DevAddr) (st sp : Bool) :
    pack a st sp
      = (a.setWidth 16 <<< 8) ||| ((BitVec.ofBool sp).setWidth 16 <<< 1) ||| (BitVec.ofBool st).setWidth 16 := by
  simp [pack, field]

/-- The three parts of `pack` do not overlap, so `|` reads as `+` (R106). -/
theorem pack_toNat (a : DevAddr) (st sp : Bool) :
    (pack a st sp).toNat = 256 * a.toNat + 2 * sp.toNat + st.toNat := by
  have ha := a.isLt
  have hst := st.toNat_le
  have hsp := sp.toNat_le
  rw [pack_eq_or, ← BitVec.add_eq_or_of_and_eq_zero, ← BitVec.add_eq_or_of_and_eq_zero]
  · simp [Nat.shiftLeft_eq]
    omega
  all_goals
    apply BitVec.eq_of_getLsbD_eq
    intro j hj
    interval_cases j <;> simp

/-- The fields of `pack` read as they were written, and its zero bits are clear (R104). -/
theorem pack_fields (a : DevAddr) (st sp : Bool) :
    (pack a st sp).extractLsb' 15 1 = 0#1 ∧ (pack a st sp).extractLsb' 2 6 = 0#6
      ∧ a = (pack a st sp).extractLsb' 8 7 ∧ st = (pack a st sp).getLsbD 0 ∧ sp = (pack a st sp).getLsbD 1 := by
  refine ⟨?_, ?_, ?_, by simp [pack_eq_or], by simp [pack_eq_or]⟩
  all_goals
    apply BitVec.eq_of_getLsbD_eq
    intro j hj
    interval_cases j <;> simp [pack_eq_or]

/-- A value field with its zero bits clear is packed from its own fields (R104). -/
theorem pack_of_fields {v : Half} (h15 : v.extractLsb' 15 1 = 0#1) (h2 : v.extractLsb' 2 6 = 0#6) :
    pack (v.extractLsb' 8 7) (v.getLsbD 0) (v.getLsbD 1) = v := by
  apply BitVec.eq_of_getLsbD_eq
  intro j hj
  interval_cases j <;> simp [pack_eq_or, getElem_of_extractLsb'_eq_zero h15, getElem_of_extractLsb'_eq_zero h2]

/-- Which operands a value field packs (R107). -/
theorem pack_eq_iff (a : DevAddr) (st sp : Bool) (v : Half) :
    pack a st sp = v ↔ v.extractLsb' 15 1 = 0#1 ∧ v.extractLsb' 2 6 = 0#6
      ∧ a = v.extractLsb' 8 7 ∧ st = v.getLsbD 0 ∧ sp = v.getLsbD 1 := by
  constructor
  · rintro rfl
    exact pack_fields a st sp
  · rintro ⟨h15, h2, rfl, rfl, rfl⟩
    exact pack_of_fields h15 h2

@[simp] theorem unpack_pack (a : DevAddr) (st sp : Bool) : unpack (pack a st sp) = (a, st, sp) := by
  obtain ⟨-, -, ha, hst, hsp⟩ := pack_fields a st sp
  exact congr (congrArg Prod.mk ha.symm) (congr (congrArg Prod.mk hst.symm) hsp.symm)

@[simp] theorem valueFieldOk_pack (a : DevAddr) (st sp : Bool) : valueFieldOk (pack a st sp) = true := by
  simp [valueFieldOk]

/-- Settles O2: the parts of `pack` do not overlap, and each has its bound. -/
theorem packIsTheValueField : Obligations.PackIsTheValueField := by
  refine ⟨fun a st sp => ⟨pack_eq_or a st sp, pack_toNat a st sp, ?_⟩, by decide⟩
  have ha := a.isLt
  have hst := st.toNat_le
  have hsp := sp.toNat_le
  rw [pack_toNat]
  omega

/-- Settles O3: `pack` is injective because `unpack` undoes it. -/
theorem unpackRecoversOperands : Obligations.UnpackRecoversOperands := by
  refine ⟨fun v => rfl, unpack_pack, fun a b st sp st' sp' h => ?_⟩
  have hu := congrArg unpack h
  simpa using hu

end Sys2Proof
end

section
/-! The decoder as the inverse of the encoder (30_encoding.md R101, R110, R114 to R117): each word is made of its own fields,
so it is read as an instruction exactly when it encodes that instruction. -/

namespace Sys2Proof

/-! The words -/

/-- The two bits of an `RQ` word read as they were written (30_encoding.md R114). -/
theorem rqWord_getElem (op : BitVec 4) (a : DevAddr) (sp st : Bool) (n : Half) :
    (rqWord op a sp st n)[17] = sp ∧ (rqWord op a sp st n)[16] = st := by
  simp [rqWord, getElem_field]

/-- A request word whose bits 27 to 25 are clear is made of its own fields (30_encoding.md R114). -/
theorem rqWord_of_fields {w : BitVec 32} (h : w.extractLsb' 25 3 = 0#3) :
    rqWord (w.extractLsb' 28 4) (w.extractLsb' 18 7) (w.getLsbD 17) (w.getLsbD 16) (w.extractLsb' 0 16) = w := by
  apply BitVec.eq_of_getLsbD_eq
  intro j hj
  interval_cases j <;> simp [rqWord, getElem_field, getElem_of_extractLsb'_eq_zero h]

/-- A request word that is `op` alone has no other bit (R116). -/
theorem rqWord_of_low_zero {w : BitVec 32} (h : w.extractLsb' 0 28 = 0#28) :
    rqWord (w.extractLsb' 28 4) 0#7 false false 0#16 = w := by
  apply BitVec.eq_of_getLsbD_eq
  intro j hj
  interval_cases j <;> simp [rqWord, getElem_field, getElem_of_extractLsb'_eq_zero h]

/-- Which operands an `RQ` word has (R114). -/
theorem rqWord_eq_iff (op : BitVec 4) (a : DevAddr) (sp st : Bool) (n : Half) (w : BitVec 32) :
    rqWord op a sp st n = w ↔ (w.extractLsb' 28 4 = op ∧ w.extractLsb' 25 3 = 0#3) ∧ a = w.extractLsb' 18 7
      ∧ sp = w.getLsbD 17 ∧ st = w.getLsbD 16 ∧ n = w.extractLsb' 0 16 := by
  constructor
  · rintro rfl
    simp [rqWord_fields, rqWord_getElem]
  · rintro ⟨⟨rfl, hz⟩, rfl, rfl, rfl, rfl⟩
    exact rqWord_of_fields hz

/-- An `MQ` word is made of its own fields (R115). -/
theorem mqWord_of_fields (w : BitVec 52) :
    mqWord (w.extractLsb' 48 4) (w.extractLsb' 16 32) (w.extractLsb' 0 16) = w := by
  apply BitVec.eq_of_getLsbD_eq
  intro j hj
  interval_cases j <;> simp [mqWord, getElem_field]

/-- Which operands an `MQ` word has (R115). -/
theorem mqWord_eq_iff (op : BitVec 4) (sa : StartAddr) (n : Half) (w : BitVec 52) :
    mqWord op sa n = w ↔ w.extractLsb' 48 4 = op ∧ sa = w.extractLsb' 16 32 ∧ n = w.extractLsb' 0 16 := by
  constructor
  · rintro rfl
    simp [mqWord_fields]
  · rintro ⟨rfl, rfl, rfl⟩
    exact mqWord_of_fields w

/-- A control word is made of its own fields (R101). -/
theorem bits_ofBits (w : BitVec 57) : (ControlWord.ofBits w).bits = w := by
  have hdir : (Direction.ofBit (w.getLsbD 56)).bit = w.getLsbD 56 := by cases w.getLsbD 56 <;> rfl
  apply BitVec.eq_of_getLsbD_eq
  intro j hj
  interval_cases j <;> simp_all [ControlWord.bits, ControlWord.ofBits, getElem_field]

/-- Which control word stands for 57 bits (R101). -/
theorem bits_eq_iff (c : ControlWord) (w : BitVec 57) : c.bits = w ↔ c = ControlWord.ofBits w := by
  constructor
  · rintro rfl
    exact (ofBits_bits c).symm
  · rintro rfl
    exact bits_ofBits w

/-! The decoder undoes the encoder -/

/-- What a word that nothing may follow answers (R117). -/
@[simp] theorem wordAlone_eq_instr_iff (rest : List Byte) (i j : Instr) :
    wordAlone rest i = .instr j ↔ rest = [] ∧ i = j := by
  unfold wordAlone
  split <;> simp [*]

/-- What a word that bytes follow answers (R117). -/
@[simp] theorem wordAndBytes_eq_instr_iff (n : Half) (rest : List Byte) (i j : Instr) :
    wordAndBytes n rest i = .instr j ↔ rest.length = n.toNat ∧ i = j := by
  unfold wordAndBytes
  split <;> simp [*]

/-- A length that fits `LEN_MAX` is kept by its 16-bit field. -/
theorem length_eq_toNat_ofNat {bs : List Byte} (h : bs.length ≤ 65535) :
    bs.length = (BitVec.ofNat 16 bs.length).toNat := by
  rw [BitVec.toNat_ofNat]
  omega

/-- A length that a 16-bit field gives fits `LEN_MAX`. -/
theorem length_le_of_eq_toNat {bs : List Byte} {n : Half} (h : bs.length = n.toNat) : bs.length ≤ 65535 := by
  have hn := n.isLt
  omega

/-- A 16-bit field that gives a length is made of it. -/
theorem ofNat_length_of_eq_toNat {bs : List Byte} {n : Half} (h : bs.length = n.toNat) :
    BitVec.ofNat 16 bs.length = n := by
  simp [h]

/-- Settles O1: each word's fields read as they were written, and the length field holds the payload's length. -/
theorem decodeEncodeRoundTrip : Obligations.DecodeEncodeRoundTrip := by
  intro i hw
  cases i with
  | resetRd | resetWr | getStatus | reset | status => decide
  | i2cWrite a st sp n => simp [encode, decode, ofBits_bits, decodeControl, cwI2cWrite]
  | i2cRead a st sp n =>
    simp [encode, decode, ofBits_bits, decodeControl, cwI2cRead, Config.codeI2cWrite, Config.codeI2cRead]
  | write a p st sp =>
    simpa [encode, decode, decodeRq, rqWord_fields, rqWord_getElem]
      using length_eq_toNat_ofNat ((wellFormed_write_iff a p st sp).1 hw)
  | read a n st sp => simp [encode, decode, decodeRq, rqWord_fields, rqWord_getElem]
  | mwrite v sa d =>
    simpa [encode, decode, decodeMq, mqWord_fields]
      using length_eq_toNat_ofNat ((wellFormed_mwrite_iff v sa d).1 hw)
  | mread v sa n => simp [encode, decode, decodeMq, mqWord_fields]
  | dump v k => simp [encode, decode, decodeMq, mqWord_fields]

/-- A control word is read as the command that is sent with it (R110). -/
theorem encode_of_decodeControl {c : ControlWord} {i : Instr} (h : decodeControl c = .instr i) :
    i.wellFormed = true ∧ encode i = .cw c.bits := by
  obtain ⟨dir, code, value, index, dlen⟩ := c
  cases dir with
  | d2h =>
    simp only [decodeControl] at h
    split_ifs at h with hrd hwr hst <;> cases h
    · obtain ⟨rfl, rfl, rfl, rfl⟩ := hrd
      exact ⟨rfl, rfl⟩
    · obtain ⟨rfl, rfl, rfl, rfl⟩ := hwr
      exact ⟨rfl, rfl⟩
    · obtain ⟨rfl, rfl, rfl, rfl⟩ := hst
      exact ⟨rfl, rfl⟩
  | h2d =>
    simp only [decodeControl, valueFieldOk, decide_eq_true_eq] at h
    split_ifs at h with hok hw hr <;> cases h
    · obtain ⟨hv, rfl⟩ := hok
      exact ⟨rfl, by simp [encode, cwI2cWrite, hv, hw]⟩
    · obtain ⟨hv, rfl⟩ := hok
      exact ⟨rfl, by simp [encode, cwI2cRead, hv, hr]⟩

/-- Words at the ENG port are read as the request they encode (R114, R116, R117). -/
theorem encode_of_decodeRq {w : BitVec 32} {p : List Byte} {i : Instr} (h : decodeRq w p = .instr i) :
    i.wellFormed = true ∧ encode i = .rq w p := by
  simp only [decodeRq] at h
  split_ifs at h with hop hz hop hz hop hz hop hz <;>
    simp only [wordAlone_eq_instr_iff, wordAndBytes_eq_instr_iff] at h <;> obtain ⟨hp, rfl⟩ := h
  · exact ⟨rfl, by rw [encode, hp, ← hop, rqWord_of_low_zero hz]⟩
  · exact ⟨rfl, by rw [encode, hp, ← hop, rqWord_of_low_zero hz]⟩
  · exact ⟨(wellFormed_write_iff _ _ _ _).2 (length_le_of_eq_toNat hp),
      by rw [encode, ofNat_length_of_eq_toNat hp, ← hop, rqWord_of_fields hz]⟩
  · exact ⟨rfl, by rw [encode, hp, ← hop, rqWord_of_fields hz]⟩

/-- Words at a MEM port are read as the request they encode (R115, R116, R117). -/
theorem encode_of_decodeMq {v : ViewId} {w : BitVec 52} {d : List Byte} {i : Instr} (h : decodeMq v w d = .instr i) :
    i.wellFormed = true ∧ encode i = .mq v w d := by
  simp only [decodeMq] at h
  split_ifs at h with hop hop hop hz <;>
    simp only [wordAlone_eq_instr_iff, wordAndBytes_eq_instr_iff] at h <;> obtain ⟨hd, rfl⟩ := h
  · exact ⟨(wellFormed_mwrite_iff _ _ _).2 (length_le_of_eq_toNat hd),
      by rw [encode, ofNat_length_of_eq_toNat hd, ← hop, mqWord_of_fields]⟩
  · exact ⟨rfl, by rw [encode, hd, ← hop, mqWord_of_fields]⟩
  · exact ⟨rfl, by rw [encode, hd, ← hop, ← hz, mqWord_of_fields]⟩

/-- The decoder reads an instruction exactly from the words that encode it. -/
theorem decode_eq_instr_iff (e : Encoded) (i : Instr) :
    decode e = .instr i ↔ i.wellFormed = true ∧ encode i = e := by
  constructor
  · intro h
    cases e with
    | cw w => exact bits_ofBits w ▸ encode_of_decodeControl h
    | rq w p => exact encode_of_decodeRq h
    | mq v w d => exact encode_of_decodeMq h
  · rintro ⟨hw, rfl⟩
    exact decodeEncodeRoundTrip i hw

/-- Settles O6: each word is the encoding of its instruction. -/
theorem writtenWordsDecode : Obligations.WrittenWordsDecode := by
  simp only [Obligations.WrittenWordsDecode, decode_eq_instr_iff]
  decide

end Sys2Proof
end

section
/-! The rows of the tables (30_encoding.md R110, R116): a row's match and mask say that a word is the row's, with the operands
as its fields. -/

namespace Sys2Proof

/-! The masks -/

/-- The mask of WRITE and READ asks for the `op` and for clear bits 27 to 25 (R116). -/
theorem and_rqMask_eq_iff (w : BitVec 32) (op : BitVec 4) :
    w &&& 0xFE000000#32 = field 32 28 op ↔ w.extractLsb' 28 4 = op ∧ w.extractLsb' 25 3 = 0#3 := by
  have hop := and_field_or_eq_field_iff (lo := 28) (m := field 32 25 (BitVec.allOnes 3)) (by decide) (by decide) w op
  exact hop.trans (and_congr_right' (and_field_allOnes_eq_iff (by decide) w 0#3))

/-- The mask of MWRITE and MREAD asks for the `op` (R116). -/
theorem and_mqMask_eq_iff (w : BitVec 52) (op : BitVec 4) :
    w &&& 0xF000000000000#52 = field 52 48 op ↔ w.extractLsb' 48 4 = op :=
  and_field_allOnes_eq_iff (lo := 48) (by decide) w op

/-- The mask of DUMP asks for the `op` and for a start address of zero (R116). -/
theorem and_dumpMask_eq_iff (w : BitVec 52) (op : BitVec 4) :
    w &&& 0xFFFFFFFFF0000#52 = field 52 48 op ↔ w.extractLsb' 48 4 = op ∧ w.extractLsb' 16 32 = 0#32 := by
  have hop := and_field_or_eq_field_iff (lo := 48) (m := field 52 16 (BitVec.allOnes 32)) (by decide) (by decide) w op
  exact hop.trans (and_congr_right' (and_field_allOnes_eq_iff (by decide) w 0#32))

/-- The mask of the transaction commands asks for the code, the direction, the zero bits of the value field and an empty
data stage (R110). -/
theorem and_cwMask_eq_iff (w : BitVec 57) (code : Code) :
    w &&& 0x1FF80FC0000FFFF#57 = field 57 48 code ↔ w.extractLsb' 48 8 = code ∧ w.extractLsb' 56 1 = 0#1
      ∧ w.extractLsb' 47 1 = 0#1 ∧ w.extractLsb' 34 6 = 0#6 ∧ w.extractLsb' 0 16 = 0#16 := by
  have hcode := and_field_or_eq_field_iff (lo := 48)
    (m := field 57 56 (BitVec.allOnes 1) ||| (field 57 47 (BitVec.allOnes 1)
      ||| (field 57 34 (BitVec.allOnes 6) ||| field 57 0 (BitVec.allOnes 16)))) (by decide) (by decide) w code
  have hdir := and_field_or_eq_field_iff (lo := 56)
    (m := field 57 47 (BitVec.allOnes 1) ||| (field 57 34 (BitVec.allOnes 6) ||| field 57 0 (BitVec.allOnes 16)))
    (by decide) (by decide) w 0#1
  have hhigh := and_field_or_eq_field_iff (lo := 47)
    (m := field 57 34 (BitVec.allOnes 6) ||| field 57 0 (BitVec.allOnes 16)) (by decide) (by decide) w 0#1
  have hlow := and_field_or_eq_field_iff (lo := 34) (m := field 57 0 (BitVec.allOnes 16))
    (by decide) (by decide) w 0#6
  have hdlen := and_field_allOnes_eq_iff (lo := 0) (by decide) w 0#16
  exact hcode.trans (and_congr_right' (hdir.trans (and_congr_right' (hhigh.trans (and_congr_right'
    (hlow.trans (and_congr_right' hdlen)))))))

/-! The commands -/

/-- The direction of a control word is its bit 56 (R102). -/
theorem ofBit_eq_h2d_iff (w : BitVec 57) : .h2d = Direction.ofBit (w.getLsbD 56) ↔ w.extractLsb' 56 1 = 0#1 := by
  have hbit : w.extractLsb' 56 1 = BitVec.ofBool (w.getLsbD 56) := by
    apply BitVec.eq_of_getLsbD_eq
    intro j hj
    interval_cases j
    simp
  rw [hbit]
  cases w.getLsbD 56 <;> decide

/-- A field of a field is a field. -/
theorem extractLsb'_extractLsb' {N lo n lo' n' : Nat} (h : lo' + n' ≤ n) (w : BitVec N) :
    (w.extractLsb' lo n).extractLsb' lo' n' = w.extractLsb' (lo + lo') n' := by
  apply BitVec.eq_of_getLsbD_eq
  intro j hj
  simp [hj, show lo' + j < n by omega, Nat.add_assoc]

/-- A word is a transaction command exactly when it has the command's code, direction and zero bits; its operands are its
fields (R101, R104, R110). -/
theorem transactionCommand_bits_eq_iff (w : BitVec 57) (code : Code) (a : DevAddr) (st sp : Bool) (n : Half) :
    (ControlWord.mk .h2d code (pack a st sp) n 0#16).bits = w ↔
      w &&& 0x1FF80FC0000FFFF#57 = field 57 48 code ∧ a = w.extractLsb' 40 7 ∧ st = w.getLsbD 32
        ∧ sp = w.getLsbD 33 ∧ n = w.extractLsb' 16 16 := by
  have hst : (w.extractLsb' 32 16).getLsbD 0 = w.getLsbD 32 := by simp
  have hsp : (w.extractLsb' 32 16).getLsbD 1 = w.getLsbD 33 := by simp
  rw [bits_eq_iff, ControlWord.ofBits, ControlWord.mk.injEq, pack_eq_iff, and_cwMask_eq_iff, ofBit_eq_h2d_iff, hst, hsp,
    extractLsb'_extractLsb' (by decide), extractLsb'_extractLsb' (by decide), extractLsb'_extractLsb' (by decide),
    eq_comm (a := code), eq_comm (a := 0#16)]
  tauto

/-- Settles O4: the decoder reads a command exactly from its own word, and that word is the row's match with its operands. -/
theorem commandRowsMatchTheirMasks : Obligations.CommandRowsMatchTheirMasks := by
  intro w
  have hall : w &&& 0x1FFFFFFFFFFFFFF#57 = w := BitVec.and_allOnes
  simp only [decode_eq_instr_iff, Instr.wellFormed, true_and, encode, Encoded.cw.injEq, hall]
  exact ⟨eq_comm, eq_comm, eq_comm, transactionCommand_bits_eq_iff w Config.codeI2cWrite,
    transactionCommand_bits_eq_iff w Config.codeI2cRead⟩

/-! The requests -/

/-- An `op` of 0x7 to 0xF is no row's (R116). -/
theorem op_ne_of_reserved {op : BitVec 4} (h : 0x7#4 ≤ op) (k : BitVec 4) (hk : k < 0x7#4) : op ≠ k := by
  rintro rfl
  exact absurd h (BitVec.not_le.2 hk)

theorem decodeRq_of_reserved {w : BitVec 32} (h : 0x7#4 ≤ w.extractLsb' 28 4) (p : List Byte) :
    decodeRq w p = .rejected .reservedOp := by
  simp [decodeRq, op_ne_of_reserved h]

theorem decodeMq_of_reserved {w : BitVec 52} (h : 0x7#4 ≤ w.extractLsb' 48 4) (v : ViewId) (d : List Byte) :
    decodeMq v w d = .rejected .reservedOp := by
  simp [decodeMq, op_ne_of_reserved h]

/-- A READ's word, and a WRITE's, is one that matches the row and has the operands as its fields (R114, R116). -/
theorem rqWord_eq_iff_match (op : BitVec 4) (a : DevAddr) (sp st : Bool) (n : Half) (w : BitVec 32) :
    rqWord op a sp st n = w ↔ w &&& 0xFE000000#32 = field 32 28 op ∧ a = w.extractLsb' 18 7 ∧ n = w.extractLsb' 0 16
      ∧ st = w.getLsbD 16 ∧ sp = w.getLsbD 17 := by
  rw [rqWord_eq_iff, and_rqMask_eq_iff]
  tauto

/-- An MREAD's word, and an MWRITE's, is one that matches the row and has the operands as its fields (R115, R116). -/
theorem mqWord_eq_iff_match (op : BitVec 4) (sa : StartAddr) (n : Half) (w : BitVec 52) :
    mqWord op sa n = w ↔ w &&& 0xF000000000000#52 = field 52 48 op ∧ sa = w.extractLsb' 16 32
      ∧ n = w.extractLsb' 0 16 := by
  rw [mqWord_eq_iff, and_mqMask_eq_iff]

/-- A DUMP's word is one that matches the row and has the line count as its field (R115, R116). -/
theorem mqWord_zero_eq_iff_match (op : BitVec 4) (n : Half) (w : BitVec 52) :
    mqWord op 0#32 n = w ↔ w &&& 0xFFFFFFFFF0000#52 = field 52 48 op ∧ n = w.extractLsb' 0 16 := by
  rw [mqWord_eq_iff, and_dumpMask_eq_iff, eq_comm (a := 0#32), and_assoc]

/-! A word alone is read as a request that nothing follows exactly when it is that request's word (R117). -/

theorem decode_rq_read_iff (w : BitVec 32) (a : DevAddr) (n : Half) (st sp : Bool) :
    decode (.rq w []) = .instr (.read a n st sp) ↔ rqWord 0x3#4 a sp st n = w := by
  simp [decode_eq_instr_iff, encode, Instr.wellFormed]

theorem decode_rq_reset_iff (w : BitVec 32) :
    decode (.rq w []) = .instr .reset ↔ rqWord 0x0#4 0#7 false false 0#16 = w := by
  simp [decode_eq_instr_iff, encode, Instr.wellFormed]

theorem decode_rq_status_iff (w : BitVec 32) :
    decode (.rq w []) = .instr .status ↔ rqWord 0x1#4 0#7 false false 0#16 = w := by
  simp [decode_eq_instr_iff, encode, Instr.wellFormed]

theorem decode_mq_mread_iff (v u : ViewId) (w : BitVec 52) (sa : StartAddr) (n : Half) :
    decode (.mq v w []) = .instr (.mread u sa n) ↔ u = v ∧ mqWord 0x5#4 sa n = w := by
  simp [decode_eq_instr_iff, encode, Instr.wellFormed]

theorem decode_mq_dump_iff (v u : ViewId) (w : BitVec 52) (k : Half) :
    decode (.mq v w []) = .instr (.dump u k) ↔ u = v ∧ mqWord 0x6#4 0#32 k = w := by
  simp [decode_eq_instr_iff, encode, Instr.wellFormed]

/-- A word followed by as many bytes as its `len` is a WRITE exactly when it is a WRITE's word with that `len` (R117). -/
theorem decode_rq_write_iff {w : BitVec 32} {p : List Byte} (hp : p.length = (w.extractLsb' 0 16).toNat) (a : DevAddr)
    (q : List Byte) (st sp : Bool) :
    decode (.rq w p) = .instr (.write a q st sp) ↔ q = p ∧ rqWord 0x2#4 a sp st (w.extractLsb' 0 16) = w := by
  rw [decode_eq_instr_iff, wellFormed_write_iff, encode, Encoded.rq.injEq]
  constructor
  · rintro ⟨-, hword, rfl⟩
    exact ⟨rfl, ofNat_length_of_eq_toNat hp ▸ hword⟩
  · rintro ⟨rfl, hword⟩
    exact ⟨length_le_of_eq_toNat hp, (ofNat_length_of_eq_toNat hp).symm ▸ hword, rfl⟩

/-- The same of an MWRITE (R117). -/
theorem decode_mq_mwrite_iff {w : BitVec 52} {d : List Byte} (hd : d.length = (w.extractLsb' 0 16).toNat) (v u : ViewId)
    (sa : StartAddr) (q : List Byte) :
    decode (.mq v w d) = .instr (.mwrite u sa q) ↔ u = v ∧ q = d ∧ mqWord 0x4#4 sa (w.extractLsb' 0 16) = w := by
  rw [decode_eq_instr_iff, wellFormed_mwrite_iff, encode, Encoded.mq.injEq]
  constructor
  · rintro ⟨-, rfl, hword, rfl⟩
    exact ⟨rfl, rfl, ofNat_length_of_eq_toNat hd ▸ hword⟩
  · rintro ⟨rfl, rfl, hword⟩
    exact ⟨length_le_of_eq_toNat hd, rfl, (ofNat_length_of_eq_toNat hd).symm ▸ hword, rfl⟩

/-- Settles O5: the decoder reads a request exactly from its own words, and those are the row's match with its operands. -/
theorem requestRowsMatchTheirMasks : Obligations.RequestRowsMatchTheirMasks := by
  refine ⟨fun w => ⟨?reset, ?status, fun a n st sp => ?read, fun p hp a q st sp => ?write,
    fun p h => decodeRq_of_reserved h p⟩, fun v w => ⟨fun u sa n => ?mread, fun u k => ?dump,
    fun d hd u sa q => ?mwrite, fun d h => decodeMq_of_reserved h v d⟩⟩
  case reset =>
    rw [decode_rq_reset_iff, show w &&& 0xFFFFFFFF#32 = w from BitVec.and_allOnes]
    exact eq_comm
  case status =>
    rw [decode_rq_status_iff, show w &&& 0xFFFFFFFF#32 = w from BitVec.and_allOnes]
    exact eq_comm
  case read => exact (decode_rq_read_iff w a n st sp).trans (rqWord_eq_iff_match 0x3#4 a sp st n w)
  case write =>
    have hrow := rqWord_eq_iff_match 0x2#4 a sp st (w.extractLsb' 0 16) w
    refine (decode_rq_write_iff hp a q st sp).trans ((and_congr_right' hrow).trans ?_)
    tauto
  case mread =>
    refine (decode_mq_mread_iff v u w sa n).trans ((and_congr_right' (mqWord_eq_iff_match 0x5#4 sa n w)).trans ?_)
    exact and_left_comm
  case dump =>
    refine (decode_mq_dump_iff v u w k).trans ((and_congr_right' (mqWord_zero_eq_iff_match 0x6#4 k w)).trans ?_)
    exact and_left_comm
  case mwrite =>
    have hrow := mqWord_eq_iff_match 0x4#4 sa (w.extractLsb' 0 16) w
    refine (decode_mq_mwrite_iff hd v u sa q).trans ((and_congr_right' (and_congr_right' hrow)).trans ?_)
    tauto

end Sys2Proof
end

section
/-! Words and requests that are refused (30_encoding.md R120, R127). -/

namespace Sys2Proof.Machine

/-- Settles O11: such a state looks at its ports, and finds no request there. -/
theorem reservedWordsAreRefused : Obligations.ReservedWordsAreRefused := by
  intro s k e why hs hk hw hd
  have hports : s.fetch = s.fetchPort := State.fetch_of_ports s (by tauto)
  have hfetch : s.fetchPort = .notARequest why := by simp [State.fetchPort, hk, hw, hd]
  simp only [step, hports, hfetch]

/-- Settles O13: well-formedness is checked before acceptance (60_exceptions.md R213). -/
theorem illFormedRequestsAreRefused : Obligations.IllFormedRequestsAreRefused := by
  refine ⟨fun s a p st sp hp => ?_, fun s V v sa d hV hd => ?_⟩
  · have hw : ¬ (Instr.write a p st sp).wellFormed = true := fun h =>
      Nat.not_le.2 hp ((wellFormed_write_iff a p st sp).1 h)
    rw [exec_engineRequest s _ rfl, if_neg hw]
  · have hf : ¬ fitsView V.aw d = true := fun h => Nat.not_le.2 hd ((fitsView_iff V.aw d).1 h)
    simp [exec, execMwrite, hV, hf]

end Sys2Proof.Machine
end

section
/-! What each phase does when its transfer has returned (40_engine_ops.md R140), and what of the reply it reads (R146,
R149). -/

namespace Sys2Proof.Machine

/-! The phases one by one -/

section
variable {s : State}

/-- A status check of a STATUS, a WRITE or a READ transfers `GET_STATUS`. -/
theorem phaseTransfer_of_statusCheck (hs : s.seq = .statusCheck) (ho : s.td.op ≠ .reset) :
    s.phaseTransfer = some (.ctl cwGetStatus) := by
  cases hop : s.td.op with
  | reset => exact absurd hop ho
  | status | write | read => simp only [State.phaseTransfer, hs, hop]

/-- The completion wait of a WRITE or a READ transfers the interrupt-in read. -/
theorem phaseTransfer_of_completionWait (hs : s.seq = .completionWait) (ho : s.td.op = .write ∨ s.td.op = .read) :
    s.phaseTransfer = some (.int s.ep.interruptIn Config.completionLen) := by
  rcases ho with ho | ho <;> simp only [State.phaseTransfer, hs, ho]

/-- Between operations, and in `ABORT`, there is no transfer. -/
theorem phaseTransfer_eq_none (hs : s.seq = .idle ∨ s.seq = .abort ∨ s.seq = .unbound ∨ s.seq = .failed) :
    s.phaseTransfer = none := by
  rcases hs with hs | hs | hs | hs <;> simp only [State.phaseTransfer, hs]

theorem phaseDone_of_resetRd (hs : s.seq = .resetRd) (bytes : List Byte) : s.phaseDone bytes = s.goto .resetWr := by
  simp only [State.phaseDone, hs]

theorem phaseDone_of_resetWr (hs : s.seq = .resetWr) (bytes : List Byte) : s.phaseDone bytes = s.returnOk .none := by
  simp only [State.phaseDone, hs]

theorem phaseDone_of_status (hs : s.seq = .statusCheck) (ho : s.td.op = .status) (bytes : List Byte) :
    s.phaseDone bytes = { s with sts := threeBytes bytes }.returnOk (.bit (interpret (threeBytes bytes))) := by
  simp only [State.phaseDone, hs, State.statusAnswered, ho]

theorem phaseDone_of_statusCheck (hs : s.seq = .statusCheck) (ho : s.td.op = .write ∨ s.td.op = .read)
    (bytes : List Byte) :
    s.phaseDone bytes
      = { s with sts := threeBytes bytes }.goto (if interpret (threeBytes bytes) then .commandDispatch else .abort) := by
  rcases ho with ho | ho <;> simp only [State.phaseDone, hs, State.statusAnswered, ho]

theorem phaseDone_of_commandDispatch (hs : s.seq = .commandDispatch) (bytes : List Byte) :
    s.phaseDone bytes = s.goto .payloadTransfer := by
  simp only [State.phaseDone, hs]

theorem phaseDone_of_bulkOut (hs : s.seq = .payloadTransfer) (ho : s.td.op = .write) (bytes : List Byte) :
    s.phaseDone bytes = s.goto .completionWait := by
  simp only [State.phaseDone, hs, ho]

theorem phaseDone_of_bulkIn (hs : s.seq = .payloadTransfer) (ho : s.td.op = .read) (bytes : List Byte) :
    s.phaseDone bytes = { s with rbuf := bytes }.goto .completionWait := by
  simp only [State.phaseDone, hs, ho]

theorem phaseDone_of_completionWait (hs : s.seq = .completionWait) (bytes : List Byte) :
    s.phaseDone bytes = { s with cmp := threeBytes bytes }.returnOk s.transactionValue := by
  simp only [State.phaseDone, hs]

/-- The step of a phase whose transfer returns a success with the right byte count. -/
theorem step_of_answer {x : Transfer} {bytes : List Byte} {e : Env} (hx : s.phaseTransfer = some x)
    (hans : s.env.answer x = some (.ok bytes, e)) (hc : x.countOk bytes = true) :
    step s = .next ((s.returned x (.ok bytes) e).phaseDone bytes) := by
  rw [step_of_phaseTransfer s x hx, State.perform_of_ok s x _ bytes e hans hc]

/-- A status check has a next state only for the operations it belongs to. -/
theorem op_of_statusCheck_next {t : State} (hs : s.seq = .statusCheck) (h : step s = .next t) : s.td.op ≠ .reset := by
  intro ho
  simp [step, State.fetch, hs, State.bridgeCommand, ho] at h

/-- A completion wait has a next state only for the operations it belongs to. -/
theorem op_of_completionWait_next {t : State} (hs : s.seq = .completionWait) (h : step s = .next t) :
    s.td.op = .write ∨ s.td.op = .read := by
  by_contra ho
  simp [step, State.fetch, hs, State.inTransaction, ho] at h

end

/-- Settles O9: the mask keeps the one bit that `interpret` reads. -/
theorem interpretReadsOneBit : Obligations.InterpretReadsOneBit := by
  have hmask (b : Byte) : (b &&& 0x01#8).getLsbD 0 = b.getLsbD 0 := by simp
  have hzero : ∀ b : Byte, (!b.getLsbD 0) = decide (b &&& 0x01#8 = 0#8) := by decide
  refine ⟨fun s => ?_, fun s => hzero s.b0, fun x y z => ?_, by decide⟩
  · rw [interpret, busyFlag, Bool.not_eq_false']
  · rw [interpret, interpret, busyFlag, busyFlag, hmask]

/-- Settles O14: a state that accepts latches the request. -/
theorem engineRequestsAreLatched : Obligations.EngineRequestsAreLatched := by
  intro s ha
  exact ⟨exec_engineRequest_of_accepting s .reset rfl rfl ha, exec_engineRequest_of_accepting s .status rfl rfl ha,
    fun a p st sp hp => exec_engineRequest_of_accepting s _ rfl ((wellFormed_write_iff a p st sp).2 hp) ha,
    fun a n st sp => exec_engineRequest_of_accepting s (.read a n st sp) rfl rfl ha⟩

/-- Settles O20: the bulk transfer returns and the phase goes on to the completion wait. -/
theorem bulkTransferCompletes : Obligations.BulkTransferCompletes := by
  intro s e bytes hs
  constructor
  · intro ho hans
    have hx : s.phaseTransfer = some (.bout s.ep.bulkOut s.pbuf) := by simp only [State.phaseTransfer, hs, ho]
    rw [step_of_answer hx hans rfl, phaseDone_of_bulkOut (s := s.returned _ _ _) hs ho]
    rfl
  · intro ho hans hlen
    have hx : s.phaseTransfer = some (.bin s.ep.bulkIn s.td.len.toNat) := by simp only [State.phaseTransfer, hs, ho]
    have hc : (Transfer.bin s.ep.bulkIn s.td.len.toNat).countOk bytes = true := by
      simp [Transfer.countOk, Transfer.asked, hlen]
    rw [step_of_answer hx hans hc, phaseDone_of_bulkIn (s := s.returned _ _ _) hs ho]
    rfl

/-- Settles O21: the completion read returns and the host's operation ends with its value. -/
theorem completionEndsTheTransaction : Obligations.CompletionEndsTheTransaction := by
  intro s e x y z v hs hh hans hv
  have ho : s.td.op = .write ∨ s.td.op = .read := hv.imp And.left And.left
  have hvalue : s.transactionValue = v := by
    rcases hv with ⟨hop, rfl⟩ | ⟨hop, rfl⟩ <;> simp only [State.transactionValue, hop]
  rw [step_of_answer (phaseTransfer_of_completionWait hs ho) hans rfl,
    phaseDone_of_completionWait (s := s.returned _ _ _) hs, ← hvalue]
  exact congrArg Host.Outcome.next (State.endEngine_of_no_hold _ _ _ hh)

/-! What of a reply is read -/

/-- The end of an operation reads neither the received bytes nor the wire trace. -/
theorem State.endEngine_of_received (s : State) (sts cmp : ThreeBytes) (wire : List (Transfer × Reply)) (p : Phase)
    (r : Response) :
    { s with sts := sts, cmp := cmp, wire := wire }.endEngine p r
      = { s.endEngine p r with sts := sts, cmp := cmp, wire := wire } := by
  rcases hh : s.hold with _ | h
  · simp [State.endEngine_of_no_hold, hh]
  · simp only [State.endEngine, hh, State.viewReceives]
    split
    · split
      · simp only [State.compositeDone]
        split <;> rfl
      · rfl
    · simp only [State.compositeFailed]
      split <;> rfl

/-- What follows the completion read does not depend on the bytes that arrived. -/
theorem State.phaseDone_of_completion_received {s : State} (hs : s.seq = .completionWait)
    (wire wire' : List (Transfer × Reply)) (bytes bytes' : List Byte) :
    { { s with wire := wire }.phaseDone bytes with
      cmp := ({ s with wire := wire' }.phaseDone bytes').cmp, wire := ({ s with wire := wire' }.phaseDone bytes').wire }
      = { s with wire := wire' }.phaseDone bytes' := by
  have hdone (wire : List (Transfer × Reply)) (bytes : List Byte) : { s with wire := wire }.phaseDone bytes
      = { s.returnOk s.transactionValue with sts := s.sts, cmp := threeBytes bytes, wire := wire } :=
    (phaseDone_of_completionWait (s := { s with wire := wire }) hs bytes).trans (s.endEngine_of_received ..)
  rw [hdone, hdone]

/-- What follows a status check depends on the busy flag of the status word alone. -/
theorem State.phaseDone_of_status_received {s : State} (hs : s.seq = .statusCheck) (ho : s.td.op ≠ .reset)
    (wire wire' : List (Transfer × Reply)) {bytes bytes' : List Byte}
    (h : interpret (threeBytes bytes) = interpret (threeBytes bytes')) :
    { { s with wire := wire }.phaseDone bytes with
      sts := ({ s with wire := wire' }.phaseDone bytes').sts, wire := ({ s with wire := wire' }.phaseDone bytes').wire }
      = { s with wire := wire' }.phaseDone bytes' := by
  cases hop : s.td.op with
  | reset => exact absurd hop ho
  | status =>
    have hdone (wire : List (Transfer × Reply)) (bytes : List Byte) : { s with wire := wire }.phaseDone bytes
        = { s.returnOk (.bit (interpret (threeBytes bytes))) with sts := threeBytes bytes, cmp := s.cmp, wire := wire } :=
      (phaseDone_of_status (s := { s with wire := wire }) hs hop bytes).trans (s.endEngine_of_received ..)
    rw [hdone, hdone, h]
  | write | read =>
    have hdone (wire : List (Transfer × Reply)) :=
      phaseDone_of_statusCheck (s := { s with wire := wire }) hs (by simp [hop])
    rw [hdone, hdone, h]
    rfl

/-- The step of a phase whose transfer the list of replies answers with a success. -/
theorem step_of_oracle_ok {s : State} {x : Transfer} (hx : s.phaseTransfer = some x) {bytes : List Byte}
    (hc : x.countOk bytes = true) (rs : List Reply) :
    step { s with env := .oracle (.ok bytes :: rs) }
      = .next ({ s with outstanding := none, env := .oracle rs, wire := s.wire ++ [(x, Reply.ok bytes)] }.phaseDone bytes) :=
  step_of_answer (s := { s with env := .oracle (.ok bytes :: rs) }) hx rfl hc

/-- Settles O22: the operation ends the same way, whatever three bytes arrived. -/
theorem completionBytesAreNotInspected : Obligations.CompletionBytesAreNotInspected := by
  intro s t t' rs x y z x' y' z' hs h h'
  have ho := op_of_completionWait_next (s := { s with env := .oracle (.ok [x, y, z] :: rs) }) hs h
  have hx : s.phaseTransfer = _ := phaseTransfer_of_completionWait hs ho
  rw [step_of_oracle_ok hx rfl] at h h'
  obtain rfl := Host.Outcome.next.inj h
  obtain rfl := Host.Outcome.next.inj h'
  exact State.phaseDone_of_completion_received (s := { s with outstanding := none, env := .oracle rs }) hs ..

/-- Settles O23: the two status words are interpreted alike. -/
theorem onlyTheBusyBitIsRead : Obligations.OnlyTheBusyBitIsRead := by
  intro s t t' rs x y z x' y' z' hs hbit h h'
  have ho := op_of_statusCheck_next (s := { s with env := .oracle (.ok [x, y, z] :: rs) }) hs h
  have hx : s.phaseTransfer = _ := phaseTransfer_of_statusCheck hs ho
  have halike : interpret (threeBytes [x, y, z]) = interpret (threeBytes [x', y', z']) := congrArg (! ·) hbit
  rw [step_of_oracle_ok hx rfl] at h h'
  obtain rfl := Host.Outcome.next.inj h
  obtain rfl := Host.Outcome.next.inj h'
  exact State.phaseDone_of_status_received (s := { s with outstanding := none, env := .oracle rs }) hs ho _ _ halike

end Sys2Proof.Machine
end

section
/-! What presenting a request leaves unchanged, and that a state that meets the invariants has a step. -/

namespace Sys2Proof.Machine

/-! Requests -/

/-- Latching leaves the payload buffer to WRITE. -/
theorem State.latch_pbuf (s : State) (i : Instr) :
    (s.latch i).pbuf = s.pbuf ∨ ∃ a p st sp, i = .write a p st sp := by
  cases i with
  | write a p st sp => exact .inr ⟨a, p, st, sp, rfl⟩
  | _ => exact .inl rfl

/-- What an engine request can change: `TD`, `PBUF` (WRITE alone), `SEQ` and the hold. -/
theorem exec_engineRequest_frame {s t : State} {i : Instr} (hi : i.isEngineRequest = true) (h : exec i s = .next t) :
    ∃ td pbuf seq hold, t = { s with td := td, pbuf := pbuf, seq := seq, hold := hold }
      ∧ (pbuf = s.pbuf ∨ ∃ a p st sp, i = .write a p st sp) := by
  have hw := wellFormed_of_exec_next hi h
  rw [exec_engineRequest s i hi, if_pos hw] at h
  obtain rfl := Host.Outcome.next.inj h
  rcases s.acceptEngine_cases i (s.latch i).td (s.latch i).pbuf (s.latch i).seq with
    hto | ⟨-, -, hto⟩ | ⟨-, H, rest, -, -, hto⟩ <;> rw [hto]
  · exact ⟨s.td, s.pbuf, s.seq, s.hold, rfl, .inl rfl⟩
  · exact ⟨_, _, _, s.hold, rfl, s.latch_pbuf i⟩
  · exact ⟨_, _, _, _, rfl, s.latch_pbuf i⟩

/-- What taking the engine can change: the hold, `ERR` and the responses. -/
theorem State.takeEngine_frame (s : State) (V : View) (sa : StartAddr) (n : Nat) (plan : List Instr) :
    ∃ hold err responses, s.takeEngine V sa n plan = { s with hold := hold, err := err, responses := responses } := by
  rcases s.takeEngine_cases V sa n plan with ⟨-, hto⟩ | ⟨-, hto⟩ <;> exact ⟨_, _, _, hto⟩

/-- What a memory-device request can change: the hold, `ERR`, the responses and the views (DUMP alone). -/
theorem exec_memoryRequest_frame {s t : State} {i : Instr}
    (hi : (∃ v sa d, i = .mwrite v sa d) ∨ (∃ v sa n, i = .mread v sa n) ∨ ∃ v k, i = .dump v k)
    (h : exec i s = .next t) :
    ∃ hold err responses views, t = { s with hold := hold, err := err, responses := responses, views := views }
      ∧ (views = s.views ∨ ∃ v k, i = .dump v k) := by
  have unchanged : ∃ hold err responses views,
      s = { s with hold := hold, err := err, responses := responses, views := views }
        ∧ (views = s.views ∨ ∃ v k, i = .dump v k) := ⟨s.hold, s.err, s.responses, s.views, rfl, .inl rfl⟩
  rcases hi with ⟨v, sa, d, rfl⟩ | ⟨v, sa, n, rfl⟩ | ⟨v, k, rfl⟩
  · obtain ⟨V, -, -, rfl⟩ := exec_mwrite_next h
    split
    · obtain ⟨hold, err, responses, hto⟩ := s.takeEngine_frame V sa d.length (writePlan V sa d)
      exact ⟨hold, err, responses, s.views, hto, .inl rfl⟩
    · exact unchanged
  · obtain ⟨V, -, rfl⟩ := exec_mread_next h
    split
    · obtain ⟨hold, err, responses, hto⟩ := s.takeEngine_frame V sa n.toNat (readPlan V sa n)
      exact ⟨hold, err, responses, s.views, hto, .inl rfl⟩
    · exact unchanged
  · rw [exec_dump_next h]
    split
    · exact ⟨s.hold, _, s.responses, _, rfl, .inr ⟨v, k, rfl⟩⟩
    · exact unchanged

/-- Settles O41: the frames of the memory-device requests and of the engine requests. -/
theorem requestsFrame : Obligations.RequestsFrame := by
  intro i s t hi h
  obtain hmem | heng : ((∃ v sa d, i = .mwrite v sa d) ∨ (∃ v sa n, i = .mread v sa n) ∨ ∃ v k, i = .dump v k)
      ∨ i.isEngineRequest = true := by simpa only [or_assoc] using hi
  · have hnot : i.isEngineRequest = false := by
      rcases hmem with ⟨v, sa, d, rfl⟩ | ⟨v, sa, n, rfl⟩ | ⟨v, k, rfl⟩ <;> rfl
    obtain ⟨hold, err, responses, views, rfl, hviews⟩ := exec_memoryRequest_frame hmem h
    exact ⟨rfl, rfl, rfl, rfl, rfl, rfl, rfl, rfl, rfl, rfl, rfl, rfl, fun _ _ => rfl, .inl rfl, hviews,
      fun hi => by simp [hnot] at hi, fun _ => ⟨rfl, rfl⟩⟩
  · obtain ⟨td, pbuf, seq, hold, rfl, hpbuf⟩ := exec_engineRequest_frame heng h
    exact ⟨rfl, rfl, rfl, rfl, rfl, rfl, rfl, rfl, rfl, rfl, rfl, rfl, fun _ _ => rfl, hpbuf, .inl rfl,
      fun _ => ⟨rfl, rfl⟩, fun hn => by simp [heng] at hn⟩

/-! Steps of a state that meets the invariants -/

/-- No instruction faults. -/
theorem exec_ne_fault (i : Instr) (s : State) (f : Fault) : exec i s ≠ .fault f := by
  cases i with
  | resetRd => simp only [exec, execResetRd]; split <;> nofun
  | resetWr => simp only [exec, execResetWr]; split <;> nofun
  | getStatus => simp only [exec, execGetStatus]; split <;> nofun
  | i2cWrite => simp only [exec, execI2cWrite]; split <;> nofun
  | i2cRead => simp only [exec, execI2cRead]; split <;> nofun
  | reset | status | read => nofun
  | write => simp only [exec, execWrite]; split <;> nofun
  | mwrite =>
    simp only [exec, execMwrite]
    split
    · nofun
    · split <;> nofun
  | mread => simp only [exec, execMread]; split <;> nofun
  | dump => simp only [exec, execDump]; split <;> nofun

/-- A step that looks at the ports does not fault. -/
theorem step_ne_fault_of_ports {s : State} (h : s.fetch = s.fetchPort) (f : Fault) : step s ≠ .fault f := by
  unfold step
  rw [h]
  rcases s.fetchPort_cases with hp | ⟨k, v, -, -, -, hp⟩ | ⟨k, e, why, -, -, -, hp⟩ | ⟨k, e, i, -, -, -, hp⟩ <;> rw [hp]
  · nofun
  · nofun
  · nofun
  · exact exec_ne_fault i _ f

section
variable {s : State}

/-- In the middle of an operation a state that meets the invariants has the transfer of its phase, or aborts. -/
theorem State.Inv.phaseTransfer_or_abort (hs : s.Inv) (hp : s.seq ≠ .idle ∧ s.seq ≠ .unbound ∧ s.seq ≠ .failed) :
    (∃ x, s.phaseTransfer = some x) ∨ s.seq = .abort ∧ (s.td.op = .write ∨ s.td.op = .read) := by
  obtain ⟨hidle, hunbound, hfailed⟩ := hp
  cases hseq : s.seq with
  | idle => exact absurd hseq hidle
  | unbound => exact absurd hseq hunbound
  | failed => exact absurd hseq hfailed
  | resetRd | resetWr =>
    have ho := hs.reset_phase (by simp [hseq])
    exact .inl ⟨_, by simp only [State.phaseTransfer, hseq, ho]; rfl⟩
  | statusCheck => exact .inl ⟨_, phaseTransfer_of_statusCheck hseq (hs.status_phase hseq)⟩
  | abort => exact .inr ⟨rfl, hs.transaction_phase (.inl hseq)⟩
  | completionWait =>
    exact .inl ⟨_, phaseTransfer_of_completionWait hseq (hs.transaction_phase (by simp [hseq]))⟩
  | commandDispatch | payloadTransfer =>
    rcases hs.transaction_phase (by simp [hseq]) with ho | ho <;>
      exact .inl ⟨_, by simp only [State.phaseTransfer, hseq, ho]; rfl⟩

/-- In the middle of an operation the step answers a next state. -/
theorem State.Inv.step_of_operation (hs : s.Inv) (hp : s.seq ≠ .idle ∧ s.seq ≠ .unbound ∧ s.seq ≠ .failed) :
    ∃ t, step s = .next t := by
  rcases hs.phaseTransfer_or_abort hp with ⟨x, hx⟩ | ⟨hseq, ho⟩
  · exact ⟨_, step_of_phaseTransfer s x hx⟩
  · exact ⟨_, step_of_abort s hseq ho⟩

/-- A view that holds an idle engine issues its next request, which is well-formed. -/
theorem State.Inv.step_of_hold (hs : s.Inv) (hseq : s.seq = .idle) {h : Hold} (hh : s.hold = some h) :
    ∃ t, step s = .next t := by
  rcases ht : h.todo with _ | ⟨i, rest⟩
  · exact absurd ht (hs.hold_idle h hh hseq)
  · obtain ⟨hi, hw⟩ := hs.hold_todo h hh i (by simp [ht])
    rw [Machine.step_of_hold hseq hh ht, exec_engineRequest s i hi, if_pos hw]
    exact ⟨_, rfl⟩

/-- A state that meets the invariants answers a next state, or looks at its ports. -/
theorem State.Inv.step_or_ports (hs : s.Inv) :
    (∃ t, step s = .next t) ∨ (s.seq = .idle ∧ s.hold = none ∨ s.seq = .unbound ∨ s.seq = .failed) := by
  by_cases hseq : s.seq = .idle
  · rcases hh : s.hold with _ | h
    · exact .inr (.inl ⟨hseq, rfl⟩)
    · exact .inl (hs.step_of_hold hseq hh)
  · by_cases hports : s.seq = .unbound ∨ s.seq = .failed
    · exact .inr (.inr hports)
    · rw [not_or] at hports
      exact .inl (hs.step_of_operation ⟨hseq, hports⟩)

end

/-- Settles O51: the phase has its transfer, the view its request, and the ports never fault. -/
theorem invariantStatesNeverFault : Obligations.InvariantStatesNeverFault := by
  intro s hs
  rcases hs.step_or_ports with ⟨t, ht⟩ | hports
  · exact ⟨fun f => by simp [ht], fun _ => ⟨t, ht⟩⟩
  · exact ⟨step_ne_fault_of_ports (State.fetch_of_ports s hports), fun hr => ⟨s, step_of_quiet hports hr⟩⟩

end Sys2Proof.Machine
end

section
/-! How an operation that fails ends: for a busy status (40_engine_ops.md R153), and for good (R154, 60_exceptions.md R211). -/

namespace Sys2Proof.Machine

/-- An unbound or failed engine does not change by a step (60_exceptions.md R208, R211). -/
theorem eq_of_step_of_terminal {s t : State} (hs : s.seq = .unbound ∨ s.seq = .failed) (h : step s = .next t) : t = s := by
  have hidle : s.seq ≠ .idle := by rcases hs with hs | hs <;> simp [hs]
  cases stepCase_of_step h with
  | waits => rfl
  | serves k p t ha => exact absurd ((State.accepting_iff s).1 ha).2.2.1 hidle
  | viewIssues h i rest hr => exact absurd ((State.ready_iff s).1 hr).2.2 hidle
  | transfers x hx => simp [phaseTransfer_eq_none (.inr (.inr hs))] at hx
  | aborts hp => simp [hp] at hs

/-- Nor does it by any number of steps. -/
theorem eq_of_after_of_terminal {s t : State} {k : Nat} (hs : s.seq = .unbound ∨ s.seq = .failed)
    (h : s.after k = .next t) : t = s := by
  induction k with
  | zero => exact (Host.Outcome.next.inj h).symm
  | succ k ih =>
    obtain ⟨u, hu, hrest⟩ := (State.after_succ_next_iff k s t).1 h
    obtain rfl := eq_of_step_of_terminal hs hu
    exact ih hrest

/-- An operation that ends with an error releases the engine, and a composite with it: a DUMP whose element it was is over,
and the code is delivered to the host, or to the view and at its MEM port (41_memory_device_ops.md R176, R177). -/
theorem State.endEngine_error (s : State) (p : Phase) {c : ResultCode} (hc : c ≠ .ok) {t : State}
    (ht : s.endEngine p ⟨c, .none⟩ = t) :
    t.hold = none ∧ (s.hold = none → t.views = s.views)
      ∧ (∀ h, s.hold = some h → (h.element = none → t.views = s.views)
        ∧ ∀ a, h.element = some a → t.views
            = s.views.map fun W => if W.id = h.view then { W with dump := none } else W)
      ∧ (s.hold = none → t.responses = s.responses ++ [⟨.eng, ⟨c, .none⟩⟩])
      ∧ ∀ h, s.hold = some h → t.responses
          = s.responses ++ [⟨.engToView h.view, ⟨c, .none⟩⟩, ⟨.mem h.view, ⟨c, .none⟩⟩] := by
  subst ht
  obtain ⟨hnone, hsome⟩ := s.endEngine_views_of_error p ⟨c, .none⟩ hc
  exact ⟨(s.endEngine_hold p ⟨c, .none⟩).resolve_right fun h => hc h.1, hnone, hsome,
    fun hh => by rw [State.endEngine_of_no_hold s p _ hh],
    fun h hh => (State.endEngine_of_error s p _ h hh hc).2⟩

/-- Settles O24: the status check goes to `ABORT`, which ends the operation with `BUS_BUSY`. -/
theorem busyStatusAborts : Obligations.BusyStatusAborts := by
  intro s e x y z hs ho hans hbusy
  let m : State := { s.returned (.ctl cwGetStatus) (.ok [x, y, z]) e with sts := ⟨x, y, z⟩, seq := .abort }
  have hclear : interpret (threeBytes [x, y, z]) = false := by simpa [interpret, busyFlag, threeBytes] using hbusy
  have hx := phaseTransfer_of_statusCheck hs (by rcases ho with ho | ho <;> simp [ho])
  have hm : step s = .next m := by
    rw [step_of_answer hx hans rfl, phaseDone_of_statusCheck (s := s.returned _ _ _) hs ho, hclear]
    rfl
  obtain ⟨hhold, hviews, hviewsHeld, hresp, hrespHeld⟩ :=
    m.endEngine_error .idle (c := .busBusy) (by decide) rfl
  refine ⟨m, m.raise .busBusy, hm, rfl, step_of_abort m rfl ho, ?_⟩
  rw [State.raise_busBusy]
  refine ⟨by simp, by simp, by simp [m], by simp [m], hhold, by simp [m], by simp [m], by simp [m], fun hb hf => ?_,
    hviews, hviewsHeld, hresp, hrespHeld⟩
  exact (State.accepting_iff _).2 ⟨by simp [m, hb], by simp [m, hf], by simp, hhold⟩

/-- A transfer that fails, or returns another byte count than asked for, raises `TRANSPORT_IO` (20_memory.md R74). -/
theorem State.perform_of_failure {s : State} {x : Transfer} {r : Reply} {e : Env} (hans : s.env.answer x = some (r, e))
    (hr : r = .fail ∨ ∃ bytes, r = .ok bytes ∧ x.countOk bytes = false) (k : State → List Byte → State) :
    s.perform x k = (s.returned x r e).raise .transportIo := by
  rcases hr with rfl | ⟨bytes, rfl, hc⟩
  · exact State.perform_of_fail s x k e hans
  · simp [State.perform, hans, hc]

/-- Settles O25: the operation ends with an error in `FAILED`, where no step changes anything. -/
theorem transferFailureIsTerminal : Obligations.TransferFailureIsTerminal := by
  intro s x r e hx hans hr
  let m : State := { s.returned x r e with failed := true }
  obtain ⟨hhold, hviews, hviewsHeld, hresp, hrespHeld⟩ :=
    m.endEngine_error .failed (c := .transportIo) (by decide) rfl
  refine ⟨m.endEngine .failed ⟨.transportIo, .none⟩, ?_, by simp, by simp [m], by simp, hhold, by simp [m], by simp [m],
    by simp [m], hviews, hviewsHeld, hresp, hrespHeld, fun k w => eq_of_after_of_terminal (by simp)⟩
  rw [step_of_phaseTransfer s x hx, State.perform_of_failure hans hr, State.raise_transportIo]

end Sys2Proof.Machine
end

section
/-! The discipline of the wire trace: the transfer a phase goes on to may follow the one that has returned (20_memory.md R79,
40_engine_ops.md R142, R147, R149, R154, 70_reset_and_hazards.md R247, R250). -/

namespace Sys2Proof.Machine

/-! Which transfer may follow which -/

/-- A control word is read as the command that is sent with it (30_encoding.md R110). -/
theorem decodeControl_eq_instr_iff (c : ControlWord) (i : Instr) :
    decodeControl c = .instr i ↔ i.wellFormed = true ∧ encode i = .cw c.bits := by
  rw [← decode_eq_instr_iff, decode, ofBits_bits]

@[simp] theorem decodeControl_cwResetRd : decodeControl cwResetRd = .instr .resetRd :=
  (decodeControl_eq_instr_iff _ _).2 ⟨rfl, rfl⟩
@[simp] theorem decodeControl_cwResetWr : decodeControl cwResetWr = .instr .resetWr :=
  (decodeControl_eq_instr_iff _ _).2 ⟨rfl, rfl⟩
@[simp] theorem decodeControl_cwGetStatus : decodeControl cwGetStatus = .instr .getStatus :=
  (decodeControl_eq_instr_iff _ _).2 ⟨rfl, rfl⟩
@[simp] theorem decodeControl_cwI2cWrite (a : DevAddr) (st sp : Bool) (n : Half) :
    decodeControl (cwI2cWrite a st sp n) = .instr (.i2cWrite a st sp n) :=
  (decodeControl_eq_instr_iff _ _).2 ⟨rfl, rfl⟩
@[simp] theorem decodeControl_cwI2cRead (a : DevAddr) (st sp : Bool) (n : Half) :
    decodeControl (cwI2cRead a st sp n) = .instr (.i2cRead a st sp n) :=
  (decodeControl_eq_instr_iff _ _).2 ⟨rfl, rfl⟩

/-- A RESET or a status check may begin after any transfer that succeeded. -/
theorem mayFollow_of_begins {prev : Option (Transfer × Reply)} {x : Transfer} (h : prev.all succeeded = true)
    (hx : x = .ctl cwResetRd ∨ x = .ctl cwGetStatus) : mayFollow prev x = true := by
  rcases hx with rfl | rfl <;> simp [mayFollow, h]

section
variable {r : Reply}

/-- `RESET_WR` follows `RESET_RD` (40_engine_ops.md R142). -/
theorem mayFollow_resetWr (h : succeeded (.ctl cwResetRd, r) = true) :
    mayFollow (some (.ctl cwResetRd, r)) (.ctl cwResetWr) = true := by
  simp [mayFollow, h]

/-- A transaction command follows a status check that read not-busy (R147, 70_reset_and_hazards.md R247). -/
theorem mayFollow_command {bytes : List Byte} {x : Transfer} (h : succeeded (.ctl cwGetStatus, .ok bytes) = true)
    (hclear : interpret (threeBytes bytes) = true)
    (hx : ∃ a st sp n, x = .ctl (cwI2cWrite a st sp n) ∨ x = .ctl (cwI2cRead a st sp n)) :
    mayFollow (some (.ctl cwGetStatus, .ok bytes)) x = true := by
  have hstatus : statusClear (.ctl cwGetStatus, .ok bytes) = true := by simp [statusClear, hclear]
  obtain ⟨a, st, sp, n, rfl | rfl⟩ := hx <;> simp [mayFollow, h, hstatus]

/-- The bulk-out follows its command, with the length of its index field (70_reset_and_hazards.md R250). -/
theorem mayFollow_bout {a : DevAddr} {st sp : Bool} {n : Half} {p : List Byte} (ep : Option Handle)
    (h : succeeded (.ctl (cwI2cWrite a st sp n), r) = true) (hn : n.toNat = p.length) :
    mayFollow (some (.ctl (cwI2cWrite a st sp n), r)) (.bout ep p) = true := by
  simp [mayFollow, h, hn]

/-- The bulk-in follows its command, with the length of its index field (70_reset_and_hazards.md R250). -/
theorem mayFollow_bin {a : DevAddr} {st sp : Bool} {n : Half} (ep : Option Handle)
    (h : succeeded (.ctl (cwI2cRead a st sp n), r) = true) :
    mayFollow (some (.ctl (cwI2cRead a st sp n), r)) (.bin ep n.toNat) = true := by
  simp [mayFollow, h]

/-- The completion read follows the bulk transfer (40_engine_ops.md R149). -/
theorem mayFollow_int {x : Transfer} (ep : Option Handle) (h : succeeded (x, r) = true)
    (hx : (∃ ep p, x = .bout ep p) ∨ ∃ ep n, x = .bin ep n) :
    mayFollow (some (x, r)) (.int ep Config.completionLen) = true := by
  rcases hx with ⟨ep', p, rfl⟩ | ⟨ep', n, rfl⟩ <;> simp [mayFollow, h]

end

/-- A transfer at the end of a trace may follow the last before it. -/
theorem wireOk_append_singleton (prev : Option (Transfer × Reply)) (xs : List (Transfer × Reply)) (x : Transfer × Reply) :
    wireOk prev (xs ++ [x]) = (wireOk prev xs && mayFollow (xs.getLast?.or prev) x.1) := by
  induction xs generalizing prev with
  | nil => simp [wireOk]
  | cons y ys ih => cases h : ys.getLast? <;> simp [wireOk, ih, h, List.getLast?_cons, Bool.and_assoc]

/-! The phase of a transfer -/

/-- The phases with a transfer, and the transfer of each (40_engine_ops.md R140). -/
inductive State.PhaseOf (s : State) : Transfer → Prop where
  | resetRd (hs : s.seq = .resetRd) (ho : s.td.op = .reset) : s.PhaseOf (.ctl cwResetRd)
  | resetWr (hs : s.seq = .resetWr) (ho : s.td.op = .reset) : s.PhaseOf (.ctl cwResetWr)
  /-- the status check of a STATUS -/
  | status (hs : s.seq = .statusCheck) (ho : s.td.op = .status) : s.PhaseOf (.ctl cwGetStatus)
  /-- the status check of a WRITE or a READ -/
  | check (hs : s.seq = .statusCheck) (ho : s.td.op = .write ∨ s.td.op = .read) : s.PhaseOf (.ctl cwGetStatus)
  | writeCommand (hs : s.seq = .commandDispatch) (ho : s.td.op = .write) :
    s.PhaseOf (.ctl (cwI2cWrite s.td.addr s.td.start s.td.stop s.td.len))
  | readCommand (hs : s.seq = .commandDispatch) (ho : s.td.op = .read) :
    s.PhaseOf (.ctl (cwI2cRead s.td.addr s.td.start s.td.stop s.td.len))
  | bulkOut (hs : s.seq = .payloadTransfer) (ho : s.td.op = .write) : s.PhaseOf (.bout s.ep.bulkOut s.pbuf)
  | bulkIn (hs : s.seq = .payloadTransfer) (ho : s.td.op = .read) : s.PhaseOf (.bin s.ep.bulkIn s.td.len.toNat)
  | completion (hs : s.seq = .completionWait) (ho : s.td.op = .write ∨ s.td.op = .read) :
    s.PhaseOf (.int s.ep.interruptIn Config.completionLen)

/-- The inversion of `phaseTransfer`. -/
theorem phaseOf_of_phaseTransfer {s : State} {x : Transfer} (hx : s.phaseTransfer = some x) : s.PhaseOf x := by
  unfold State.phaseTransfer at hx
  split at hx
  all_goals
    rename_i hs ho
    simp only [Option.some.injEq, reduceCtorEq] at hx
  all_goals subst hx
  · exact .resetRd hs ho
  · exact .resetWr hs ho
  · exact .status hs ho
  · exact .check hs (.inl ho)
  · exact .check hs (.inr ho)
  · exact .writeCommand hs ho
  · exact .readCommand hs ho
  · exact .bulkOut hs ho
  · exact .bulkIn hs ho
  · exact .completion hs (.inl ho)
  · exact .completion hs (.inr ho)

/-! What keeps the discipline -/

section
variable {s t : State}

/-- The discipline speaks of the wire trace, of whether the engine has failed, and of the transfer of the phase. -/
theorem State.WireInv.of_same_wire (hs : s.WireInv) (hw : t.wire = s.wire) (hf : t.seq ≠ .failed → s.seq ≠ .failed)
    (hx : ∀ x, t.phaseTransfer = some x → mayFollow s.wire.getLast? x = true) : t.WireInv where
  trace := by rw [hw]; exact hs.trace
  phase := by rw [hw]; exact hx
  alive := fun h => by rw [hw]; exact hs.alive (hf h)

/-- An engine with no operation in progress begins one. -/
theorem State.WireInv.latch (hs : s.WireInv) (hr : s.ready = true) {i : Instr} (hi : i.isEngineRequest = true)
    (H : Option Hold) : State.WireInv { s.latch i with hold := H } := by
  have hidle : s.seq ≠ .failed := (usable_of_ready hr).1
  refine hs.of_same_wire (s.latch_env_wire i).2 (fun _ => hidle) fun x hx => mayFollow_of_begins (hs.alive hidle) ?_
  cases i with
  | reset => exact .inl (by simpa [State.latch, State.phaseTransfer] using hx.symm)
  | status | write | read => exact .inr (by simpa [State.latch, State.phaseTransfer] using hx.symm)
  | _ => cases hi

/-- The transfer of the phase returns: what the state goes on to transfer may follow it, and after a failure nothing does. -/
theorem State.WireInv.of_return (hs : s.WireInv) {x : Transfer} {r : Reply} (hx : s.phaseTransfer = some x)
    (hw : t.wire = s.wire ++ [(x, r)]) (hf : t.seq ≠ .failed → succeeded (x, r) = true)
    (hy : ∀ y, t.phaseTransfer = some y → mayFollow (some (x, r)) y = true) : t.WireInv where
  trace := by rw [hw, wireOk_append_singleton, hs.trace, Option.or_none, hs.phase x hx]; rfl
  phase := by rw [hw, List.getLast?_concat]; exact hy
  alive := fun h => by rw [hw, List.getLast?_concat]; exact hf h

/-- Serving a request begins an operation, or transfers nothing. -/
theorem State.Serves.wireInv (h : s.Serves t) (hs : s.WireInv) (hr : s.ready = true) : t.WireInv := by
  have hidle := ((State.ready_iff s).1 hr).2.2
  have quiet (hw : t.wire = s.wire) (hseq : t.seq = s.seq) : t.WireInv :=
    hs.of_same_wire hw (by simp [hidle]) fun x hx => by simp [phaseTransfer_eq_none (.inl (hseq.trans hidle))] at hx
  cases h with
  | engine i hi => exact hs.latch hr hi (s.latch i).hold
  | holdToWrite | holdToRead | outOfRange | startDump | endDump => exact quiet rfl rfl

/-- The phase that follows a success has no transfer, or one that may follow the one that succeeded. -/
theorem State.PhaseOf.mayFollow_of_phaseDone {x y : Transfer} {bytes : List Byte} (hp : s.PhaseOf x) (hs : s.Inv)
    (hc : x.countOk bytes = true) (hy : (s.phaseDone bytes).phaseTransfer = some y) :
    mayFollow (some (x, .ok bytes)) y = true := by
  have hok : succeeded (x, .ok bytes) = true := hc
  have ended (u : State) (v : Value) (hu : s.phaseDone bytes = u.returnOk v) : False := by
    have hnone := phaseTransfer_eq_none (s := u.returnOk v) (.inl (u.endEngine_seq .idle _))
    rw [hu, hnone] at hy
    cases hy
  cases hp with
  | resetRd hseq ho =>
    obtain rfl : .ctl cwResetWr = y := by simpa [phaseDone_of_resetRd hseq, State.phaseTransfer, ho] using hy
    exact mayFollow_resetWr hok
  | resetWr hseq ho => exact (ended s .none (phaseDone_of_resetWr hseq bytes)).elim
  | status hseq ho => exact (ended _ _ (phaseDone_of_status hseq ho bytes)).elim
  | check hseq ho =>
    rw [phaseDone_of_statusCheck hseq ho] at hy
    cases hclear : interpret (threeBytes bytes) with
    | true =>
      refine mayFollow_command hok hclear ⟨s.td.addr, s.td.start, s.td.stop, s.td.len, ?_⟩
      rcases ho with ho | ho
      · exact .inl (by simpa [hclear, State.phaseTransfer, ho] using hy.symm)
      · exact .inr (by simpa [hclear, State.phaseTransfer, ho] using hy.symm)
    | false => simp [hclear, State.phaseTransfer] at hy
  | writeCommand hseq ho =>
    obtain rfl : .bout s.ep.bulkOut s.pbuf = y := by
      simpa [phaseDone_of_commandDispatch hseq, State.phaseTransfer, ho] using hy
    exact mayFollow_bout _ hok (hs.payload_length ho)
  | readCommand hseq ho =>
    obtain rfl : .bin s.ep.bulkIn s.td.len.toNat = y := by
      simpa [phaseDone_of_commandDispatch hseq, State.phaseTransfer, ho] using hy
    exact mayFollow_bin _ hok
  | bulkOut hseq ho =>
    obtain rfl : .int s.ep.interruptIn Config.completionLen = y := by
      simpa [phaseDone_of_bulkOut hseq ho, State.phaseTransfer, ho] using hy
    exact mayFollow_int _ hok (.inl ⟨_, _, rfl⟩)
  | bulkIn hseq ho =>
    obtain rfl : .int s.ep.interruptIn Config.completionLen = y := by
      simpa [phaseDone_of_bulkIn hseq ho, State.phaseTransfer, ho] using hy
    exact mayFollow_int _ hok (.inr ⟨_, _, rfl⟩)
  | completion hseq ho => exact (ended _ _ (phaseDone_of_completionWait hseq bytes)).elim

/-- Performing the transfer of the phase keeps the discipline, whatever the environment answers. -/
theorem State.WireInv.perform (hw : s.WireInv) (hs : s.Inv) {x : Transfer} (hx : s.phaseTransfer = some x) :
    (s.perform x State.phaseDone).WireInv := by
  rcases s.perform_phaseDone_cases x with hto | ⟨bytes, e, hc, hto⟩ | ⟨r, e, c, -, hto⟩ <;> rw [hto]
  · exact hw.of_same_wire rfl id hw.phase
  · have hp : (s.returned x (.ok bytes) e).PhaseOf x := phaseOf_of_phaseTransfer hx
    exact hw.of_return hx (State.phaseDone_env_wire _ bytes).2 (fun _ => hc) fun y hy =>
      hp.mayFollow_of_phaseDone (hs.returned x (.ok bytes) e) hc hy
  · refine hw.of_return hx (State.endEngine_wire ..) (by simp) fun y hy => ?_
    rw [phaseTransfer_eq_none (.inr (.inr (.inr (State.endEngine_seq ..))))] at hy
    cases hy

/-- Every case of a step keeps the discipline. -/
theorem State.StepCase.wireInv (h : s.StepCase t) (hs : s.Inv) (hw : s.WireInv) : t.WireInv := by
  cases h with
  | waits => exact hw
  | serves k p t ha _ hserves =>
    have hr : (s.take k).ready = true := by
      obtain ⟨hb, hf, hidle, -⟩ := (State.accepting_iff s).1 ha
      exact (State.ready_iff _).2 ⟨hb, hf, hidle⟩
    exact hserves.wireInv (hw.of_same_wire rfl id hw.phase) hr
  | viewIssues h i rest hr _ _ hi => exact hw.latch hr hi _
  | transfers x hx => exact hw.perform hs hx
  | aborts hseq =>
    refine hw.of_same_wire (s.raise_wire .busBusy) (by simp [hseq]) fun x hx => ?_
    rw [State.raise_busBusy, phaseTransfer_eq_none (.inl (State.endEngine_seq ..))] at hx
    cases hx

end

/-- Settles O49: every case that `step` has keeps the discipline. -/
theorem everyStepKeepsTheWireDiscipline : Obligations.EveryStepKeepsTheWireDiscipline :=
  fun _ _ hs hw h => (stepCase_of_step h).wireInv hs hw

end Sys2Proof.Machine
end

section
/-! The engine operations of the host run their pseudocode, phase by phase, whatever the environment answers
(40_engine_ops.md R142 to R151). -/

namespace Sys2Proof.Machine

/-! The host's operation in a phase -/

/-- An operation of the host is in progress: nobody holds the engine, nobody waits, it has not failed, and no transfer is on
its way. -/
structure State.ForHost (s : State) : Prop where
  hold : s.hold = none
  requesters : s.requesters = []
  failed : s.failed = false
  outstanding : s.outstanding = none

/-- After `k` steps from `u` the machine shows the run `p` of the pseudocode that began in `s`. -/
def State.Shows (s u : State) (k : Nat) (p : Run) : Prop := ∃ t, u.after k = .next t ∧ s.showsRun p t

section
variable {s : State}

/-- A transfer that returns leaves the operation the host's. -/
theorem State.ForHost.returned (h : s.ForHost) (x : Transfer) (r : Reply) (e : Env) : (s.returned x r e).ForHost :=
  ⟨h.hold, h.requesters, h.failed, rfl⟩

/-- `ForHost` speaks neither of the phase nor of the received bytes. -/
theorem State.ForHost.frame (h : s.ForHost) (p : Phase) (rbuf : List Byte) (sts cmp : ThreeBytes) :
    State.ForHost { s with seq := p, rbuf := rbuf, sts := sts, cmp := cmp } :=
  ⟨h.hold, h.requesters, h.failed, h.outstanding⟩

/-- While its transfer is not answered the machine stays in the phase (70_reset_and_hazards.md R255). -/
theorem after_issue {x : Transfer} (hx : s.phaseTransfer = some x)
    (hwait : s.env.answer x = none ∨ (∃ e, s.env.answer x = some (.never, e)) ∧ s.timeout = none) (k : Nat) :
    (s.issue x).after k = .next (s.issue x) := by
  refine State.after_of_step_self k _ ?_
  rw [step_of_phaseTransfer (s.issue x) x hx]
  rcases hwait with hnone | ⟨⟨e, hnever⟩, ht⟩
  · rw [State.perform_of_wait (s.issue x) x _ hnone]
    rfl
  · simp [State.perform, hnever, ht, State.issue]

/-- The host's operation ends with a value, and the machine stays idle. -/
theorem State.ForHost.shows_returnOk (h : s.ForHost) (v : Value) (k : Nat) :
    s.Shows (s.returnOk v) k (returning v s.env) := by
  refine ⟨_, State.after_of_quiet k _ (.inl ⟨State.endEngine_seq .., ?_⟩) ?_, ?_⟩
  · simp [State.returnOk, State.endEngine_of_no_hold, h.hold]
  · simp [State.returnOk, h.requesters]
  · simp [State.showsRun, returning, State.returnOk, State.endEngine_of_no_hold, h.hold, h.failed, h.outstanding]

/-- The host's operation fails, and the machine stays in `FAILED`. -/
theorem State.ForHost.shows_raise (h : s.ForHost) {c : ResultCode} (hc : c = .transportIo ∨ c = .timeout) (k : Nat) :
    s.Shows (s.raise c) k ⟨[], s.env, .raised c⟩ := by
  have hto : s.raise c = { s with failed := true }.endEngine .failed ⟨c, .none⟩ := by rcases hc with rfl | rfl <;> rfl
  refine ⟨_, State.after_of_quiet k _ (.inr (.inr ?_)) ?_, ?_⟩
  · simp [hto]
  · simp [h.requesters]
  · have hne : c ≠ .busBusy := by rcases hc with rfl | rfl <;> decide
    simp [State.showsRun, hto, State.endEngine_of_no_hold, h.hold, h.outstanding, hne]

/-- In `ABORT` the host's operation ends with `BUS_BUSY`, and the machine stays idle. -/
theorem State.ForHost.shows_abort (h : s.ForHost) (hs : s.seq = .abort) (ho : s.td.op = .write ∨ s.td.op = .read) (k : Nat) :
    s.Shows s (k + 1) ⟨[], s.env, .raised .busBusy⟩ := by
  have hto := State.endEngine_of_no_hold s .idle ⟨.busBusy, .none⟩ h.hold
  refine ⟨s.raise .busBusy, ?_, ?_⟩
  · rw [State.after_succ_of_next k s _ (step_of_abort s hs ho), State.raise_busBusy, hto]
    exact State.after_of_quiet k _ (.inl ⟨rfl, h.hold⟩) h.requesters
  · rw [State.raise_busBusy, hto]
    simp [State.showsRun, h.failed, h.outstanding]

end

/-! One line of the pseudocode -/

section
variable {τ : Option Nat} {x : Transfer} {e e' : Env} {rest : List Byte → Env → Run}

/-- A transfer that is not answered is a wait. -/
theorem callTransfer_of_wait (h : e.answer x = none ∨ (∃ e', e.answer x = some (.never, e')) ∧ τ = none) :
    callTransfer τ x e rest = ⟨[], e, .waiting x⟩ := by
  rcases h with hnone | ⟨⟨e', hnever⟩, rfl⟩
  · simp only [callTransfer, hnone]
  · simp only [callTransfer, hnever]

/-- After a success with the right byte count the lines after it run. -/
theorem callTransfer_of_ok {bytes : List Byte} (h : e.answer x = some (.ok bytes, e')) (hc : x.countOk bytes = true) :
    callTransfer τ x e rest
      = ⟨(x, .ok bytes) :: (rest bytes e').wire, (rest bytes e').env, (rest bytes e').ending⟩ := by
  simp only [callTransfer, h, hc, if_true]

/-- A failure, or a success with another byte count, raises `TRANSPORT_IO`. -/
theorem callTransfer_of_failure {r : Reply} (h : e.answer x = some (r, e'))
    (hr : r = .fail ∨ ∃ bytes, r = .ok bytes ∧ x.countOk bytes = false) :
    callTransfer τ x e rest = ⟨[(x, r)], e', .raised .transportIo⟩ := by
  rcases hr with rfl | ⟨bytes, rfl, hc⟩
  · simp only [callTransfer, h]
  · simp [callTransfer, h, hc]

/-- A transfer that does not return within a bound raises `TIMEOUT`. -/
theorem callTransfer_of_timeout {n : Nat} (h : e.answer x = some (.never, e')) :
    callTransfer (some n) x e rest = ⟨[(x, .never)], e', .raised .timeout⟩ := by
  simp only [callTransfer, h]

end

section
variable {s : State}

/-- A run that goes on after the return of a transfer shows that transfer first. -/
theorem State.Shows.of_returned {u : State} {k : Nat} {x : Transfer} {r : Reply} {e : Env} {p : Run}
    (h : (s.returned x r e).Shows u k p) : s.Shows u k ⟨(x, r) :: p.wire, p.env, p.ending⟩ := by
  obtain ⟨t, ht, hwire, henv, hend⟩ := h
  exact ⟨t, ht, by simpa using hwire, henv, hend⟩

/-- One line of the pseudocode: the machine performs the transfer of its phase, and shows what the lines after it make of a
success. -/
theorem State.ForHost.shows_callTransfer (h : s.ForHost) {x : Transfer} (hx : s.phaseTransfer = some x) {k : Nat}
    {rest : List Byte → Env → Run}
    (hrest : ∀ bytes e, (s.returned x (.ok bytes) e).Shows ((s.returned x (.ok bytes) e).phaseDone bytes) k (rest bytes e)) :
    s.Shows s (k + 1) (callTransfer s.timeout x s.env rest) := by
  have hstep {u : State} {p : Run} (hto : s.perform x State.phaseDone = u) (hu : s.Shows u k p) : s.Shows s (k + 1) p := by
    obtain ⟨t, ht, hp⟩ := hu
    exact ⟨t, by rw [State.after_succ_of_next k s u (hto ▸ step_of_phaseTransfer s x hx), ht], hp⟩
  rcases s.perform_cases x State.phaseDone with
    ⟨hto, hwait⟩ | ⟨bytes, e, hans, hc, hto⟩ | ⟨r, e, hans, hr, hto⟩ | ⟨e, n, hans, ht, hto⟩
  · rw [callTransfer_of_wait hwait]
    exact hstep hto ⟨_, after_issue hx hwait k, by simp, rfl, hx, rfl, rfl, h.failed, rfl⟩
  · rw [callTransfer_of_ok hans hc]
    exact hstep hto (hrest bytes e).of_returned
  · rw [callTransfer_of_failure hans hr]
    exact hstep hto ((h.returned x r e).shows_raise (.inl rfl) k).of_returned
  · rw [ht, callTransfer_of_timeout hans]
    exact hstep hto ((h.returned x .never e).shows_raise (.inr rfl) k).of_returned

end

/-! The lines of WRITE and READ that the boxes of R148 and R150 end with -/

/-- The completion read, and the return. -/
def runCompletion (timeout : Option Nat) (ep : EndpointSet) (v : Value) (e : Env) : Run :=
  callTransfer timeout (.int ep.interruptIn Config.completionLen) e fun _ e => returning v e

/-- The bulk-out of a WRITE, and the lines after it. -/
def runBulkOut (timeout : Option Nat) (ep : EndpointSet) (payload : List Byte) (e : Env) : Run :=
  callTransfer timeout (.bout ep.bulkOut payload) e fun _ e => runCompletion timeout ep .none e

/-- The bulk-in of a READ, and the lines after it. -/
def runBulkIn (timeout : Option Nat) (ep : EndpointSet) (n : Nat) (e : Env) : Run :=
  callTransfer timeout (.bin ep.bulkIn n) e fun b e => runCompletion timeout ep (.bytes b) e

/-- The box of WRITE: the status check, and the command with its lines (40_engine_ops.md R148). -/
theorem runWrite_eq (timeout : Option Nat) (ep : EndpointSet) (a : DevAddr) (p : List Byte) (st sp : Bool) (e : Env) :
    runWrite timeout ep a p st sp e = callTransfer timeout (.ctl cwGetStatus) e fun b e =>
      if interpret (threeBytes b) then
        callTransfer timeout (.ctl (cwI2cWrite a st sp (BitVec.ofNat 16 p.length))) e fun _ e => runBulkOut timeout ep p e
      else ⟨[], e, .raised .busBusy⟩ := rfl

/-- The box of READ: the status check, and the command with its lines (40_engine_ops.md R150). -/
theorem runRead_eq (timeout : Option Nat) (ep : EndpointSet) (a : DevAddr) (n : Half) (st sp : Bool) (e : Env) :
    runRead timeout ep a n st sp e = callTransfer timeout (.ctl cwGetStatus) e fun b e =>
      if interpret (threeBytes b) then
        callTransfer timeout (.ctl (cwI2cRead a st sp n)) e fun _ e => runBulkIn timeout ep n.toNat e
      else ⟨[], e, .raised .busBusy⟩ := rfl

section
variable {s : State}

/-! The phases, last first: the machine in a phase shows what is left of the pseudocode there -/

theorem State.ForHost.shows_resetWr (h : s.ForHost) (hs : s.seq = .resetWr) (ho : s.td.op = .reset) (k : Nat) :
    s.Shows s (k + 1) (callTransfer s.timeout (.ctl cwResetWr) s.env fun _ e => returning .none e) := by
  have hx : s.phaseTransfer = some (.ctl cwResetWr) := by simp only [State.phaseTransfer, hs, ho]
  refine h.shows_callTransfer hx fun bytes e => ?_
  rw [phaseDone_of_resetWr (s := s.returned _ _ _) hs]
  exact (h.returned _ _ e).shows_returnOk .none k

theorem State.ForHost.shows_resetRd (h : s.ForHost) (hs : s.seq = .resetRd) (ho : s.td.op = .reset) (k : Nat) :
    s.Shows s (k + 2) (runReset s.timeout s.env) := by
  have hx : s.phaseTransfer = some (.ctl cwResetRd) := by simp only [State.phaseTransfer, hs, ho]
  refine h.shows_callTransfer hx fun bytes e => ?_
  rw [phaseDone_of_resetRd (s := s.returned _ _ _) hs]
  exact ((h.returned (.ctl cwResetRd) (.ok bytes) e).frame .resetWr ..).shows_resetWr rfl ho k

theorem State.ForHost.shows_status (h : s.ForHost) (hs : s.seq = .statusCheck) (ho : s.td.op = .status) (k : Nat) :
    s.Shows s (k + 1) (runStatus s.timeout s.env) := by
  refine h.shows_callTransfer (phaseTransfer_of_statusCheck hs (by simp [ho])) fun bytes e => ?_
  rw [phaseDone_of_status (s := s.returned _ _ _) hs ho]
  have hlatched := (h.returned (.ctl cwGetStatus) (.ok bytes) e).frame s.seq s.rbuf (threeBytes bytes) s.cmp
  exact hlatched.shows_returnOk _ k

theorem State.ForHost.shows_completionWait (h : s.ForHost) (hs : s.seq = .completionWait)
    (ho : s.td.op = .write ∨ s.td.op = .read) {v : Value} (hv : s.transactionValue = v) (k : Nat) :
    s.Shows s (k + 1) (runCompletion s.timeout s.ep v s.env) := by
  have hx := phaseTransfer_of_completionWait hs ho
  refine h.shows_callTransfer hx fun bytes e => ?_
  rw [phaseDone_of_completionWait (s := s.returned _ _ _) hs, ← hv]
  have hreturned := h.returned (.int s.ep.interruptIn Config.completionLen) (.ok bytes) e
  have hlatched := hreturned.frame s.seq s.rbuf s.sts (threeBytes bytes)
  exact hlatched.shows_returnOk _ k

theorem State.ForHost.shows_bulkOut (h : s.ForHost) (hs : s.seq = .payloadTransfer) (ho : s.td.op = .write) (k : Nat) :
    s.Shows s (k + 2) (runBulkOut s.timeout s.ep s.pbuf s.env) := by
  have hx : s.phaseTransfer = some (.bout s.ep.bulkOut s.pbuf) := by simp only [State.phaseTransfer, hs, ho]
  refine h.shows_callTransfer hx fun bytes e => ?_
  rw [phaseDone_of_bulkOut (s := s.returned _ _ _) hs ho]
  have hgoto := (h.returned (.bout s.ep.bulkOut s.pbuf) (.ok bytes) e).frame .completionWait s.rbuf s.sts s.cmp
  exact hgoto.shows_completionWait rfl (.inl ho) (by simp [State.transactionValue, ho]) k

theorem State.ForHost.shows_bulkIn (h : s.ForHost) (hs : s.seq = .payloadTransfer) (ho : s.td.op = .read) (k : Nat) :
    s.Shows s (k + 2) (runBulkIn s.timeout s.ep s.td.len.toNat s.env) := by
  have hx : s.phaseTransfer = some (.bin s.ep.bulkIn s.td.len.toNat) := by simp only [State.phaseTransfer, hs, ho]
  refine h.shows_callTransfer hx fun bytes e => ?_
  rw [phaseDone_of_bulkIn (s := s.returned _ _ _) hs ho]
  have hreturned := h.returned (.bin s.ep.bulkIn s.td.len.toNat) (.ok bytes) e
  have hlatched := hreturned.frame .completionWait bytes s.sts s.cmp
  exact hlatched.shows_completionWait rfl (.inr ho) (by simp [State.transactionValue, ho]) k

theorem State.ForHost.shows_writeCommand (h : s.ForHost) (hs : s.seq = .commandDispatch) (ho : s.td.op = .write) (k : Nat) :
    s.Shows s (k + 3) (callTransfer s.timeout (.ctl (cwI2cWrite s.td.addr s.td.start s.td.stop s.td.len)) s.env
      fun _ e => runBulkOut s.timeout s.ep s.pbuf e) := by
  have hx : s.phaseTransfer = some (.ctl (cwI2cWrite s.td.addr s.td.start s.td.stop s.td.len)) := by
    simp only [State.phaseTransfer, hs, ho]
  refine h.shows_callTransfer hx fun bytes e => ?_
  rw [phaseDone_of_commandDispatch (s := s.returned _ _ _) hs]
  exact ((h.returned _ (.ok bytes) e).frame .payloadTransfer ..).shows_bulkOut rfl ho k

theorem State.ForHost.shows_readCommand (h : s.ForHost) (hs : s.seq = .commandDispatch) (ho : s.td.op = .read) (k : Nat) :
    s.Shows s (k + 3) (callTransfer s.timeout (.ctl (cwI2cRead s.td.addr s.td.start s.td.stop s.td.len)) s.env
      fun _ e => runBulkIn s.timeout s.ep s.td.len.toNat e) := by
  have hx : s.phaseTransfer = some (.ctl (cwI2cRead s.td.addr s.td.start s.td.stop s.td.len)) := by
    simp only [State.phaseTransfer, hs, ho]
  refine h.shows_callTransfer hx fun bytes e => ?_
  rw [phaseDone_of_commandDispatch (s := s.returned _ _ _) hs]
  exact ((h.returned _ (.ok bytes) e).frame .payloadTransfer ..).shows_bulkIn rfl ho k

/-- The status check of a WRITE or a READ goes on to the command and its lines, or through `ABORT` (40_engine_ops.md R147,
R153). -/
theorem State.ForHost.shows_statusCheck (h : s.ForHost) (hs : s.seq = .statusCheck)
    (ho : s.td.op = .write ∨ s.td.op = .read) {k : Nat} {command : Env → Run}
    (hcommand : ∀ bytes e,
      let u := { s.returned (.ctl cwGetStatus) (.ok bytes) e with sts := threeBytes bytes }.goto .commandDispatch
      u.ForHost → u.Shows u (k + 1) (command e)) :
    s.Shows s (k + 2) (callTransfer s.timeout (.ctl cwGetStatus) s.env fun b e =>
      if interpret (threeBytes b) then command e else ⟨[], e, .raised .busBusy⟩) := by
  have hx := phaseTransfer_of_statusCheck hs (by rcases ho with ho | ho <;> simp [ho])
  refine h.shows_callTransfer hx fun bytes e => ?_
  rw [phaseDone_of_statusCheck (s := s.returned _ _ _) hs ho]
  have hgoto (p : Phase) := (h.returned (.ctl cwGetStatus) (.ok bytes) e).frame p s.rbuf (threeBytes bytes) s.cmp
  cases interpret (threeBytes bytes) with
  | true => exact hcommand bytes e (hgoto .commandDispatch)
  | false => exact (hgoto .abort).shows_abort rfl ho k

end

/-! Whole operations -/

/-- The host's request in a state that accepts runs, as what its first phase shows. -/
theorem shows_of_accepting {s : State} {i : Instr} {k : Nat} {p : Run} (hi : i.isEngineRequest = true)
    (hw : i.wellFormed = true) (ha : s.accepting = true) (hr : s.requesters = []) (ho : s.outstanding = none)
    (hp : (s.latch i).ForHost → (s.latch i).Shows (s.latch i) k p) :
    ∃ s1 t, exec i s = .next s1 ∧ s1.after k = .next t ∧ s.showsRun p t := by
  obtain ⟨-, hf, -, hh⟩ := (State.accepting_iff s).1 ha
  have hhost : (s.latch i).ForHost := by
    rw [s.latch_frame i]
    exact ⟨hh, hr, hf, ho⟩
  obtain ⟨t, ht, hshows⟩ := hp hhost
  refine ⟨s.latch i, t, exec_engineRequest_of_accepting s i hi hw ha, ht, ?_⟩
  rw [s.latch_frame i] at hshows
  exact hshows

/-- Settles O36: both begin in the phase whose run is their pseudocode. -/
theorem resetAndStatusRunTheirPseudocode : Obligations.ResetAndStatusRunTheirPseudocode := fun _ ha hr ho =>
  ⟨shows_of_accepting (i := .reset) rfl rfl ha hr ho fun h => h.shows_resetRd rfl rfl 0,
    shows_of_accepting (i := .status) rfl rfl ha hr ho fun h => h.shows_status rfl rfl 0⟩

/-- Settles O37: the status check, then the command with the latched operands, and the bulk-out of the latched payload. -/
theorem writeRunsItsPseudocode : Obligations.WriteRunsItsPseudocode := by
  intro s a p st sp ha hr ho hp
  refine shows_of_accepting rfl ((wellFormed_write_iff a p st sp).2 hp) ha hr ho fun h => ?_
  rw [runWrite_eq]
  exact h.shows_statusCheck rfl (.inl rfl) fun bytes e hu => hu.shows_writeCommand rfl rfl 0

/-- Settles O38: the status check, then the command with the latched operands, and the bulk-in of the latched length. -/
theorem readRunsItsPseudocode : Obligations.ReadRunsItsPseudocode := by
  intro s a n st sp ha hr ho
  refine shows_of_accepting (i := .read a n st sp) rfl rfl ha hr ho fun h => ?_
  rw [runRead_eq]
  exact h.shows_statusCheck rfl (.inr rfl) fun bytes e hu => hu.shows_readCommand rfl rfl 0

/-! What a READ returns -/

/-- A run of the pseudocode that returns does so with a wire trace and a value as `P` says, and none raises `OK`. -/
def Run.ReturnsOnly (p : Run) (P : List (Transfer × Reply) → Value → Prop) : Prop :=
  match p.ending with
  | .returned v => P p.wire v
  | .raised c => c ≠ .ok
  | .waiting _ => True

/-- A run that goes on after a transfer returns what the lines after its success return. -/
theorem callTransfer_returnsOnly {timeout : Option Nat} {x : Transfer} {e : Env} {rest : List Byte → Env → Run}
    {P : List (Transfer × Reply) → Value → Prop}
    (h : ∀ bytes e', x.countOk bytes = true → (rest bytes e').ReturnsOnly fun w v => P ((x, .ok bytes) :: w) v) :
    (callTransfer timeout x e rest).ReturnsOnly P := by
  rcases hans : e.answer x with _ | ⟨r, e'⟩
  · simp [callTransfer_of_wait (.inl hans), Run.ReturnsOnly]
  · cases r with
    | ok bytes =>
      cases hc : x.countOk bytes with
      | true =>
        rw [callTransfer_of_ok hans hc]
        exact h bytes e' hc
      | false => simp [callTransfer_of_failure hans (.inr ⟨bytes, rfl, hc⟩), Run.ReturnsOnly]
    | fail => simp [callTransfer_of_failure hans (.inl rfl), Run.ReturnsOnly]
    | never =>
      cases timeout with
      | none => simp [callTransfer_of_wait (.inr ⟨⟨e', hans⟩, rfl⟩), Run.ReturnsOnly]
      | some n => simp [callTransfer_of_timeout hans, Run.ReturnsOnly]

/-- The pseudocode of READ returns the bytes of its bulk-in, as many as were asked for (40_engine_ops.md R151). -/
theorem runRead_returnsOnly (timeout : Option Nat) (ep : EndpointSet) (a : DevAddr) (n : Half) (st sp : Bool) (e : Env) :
    (runRead timeout ep a n st sp e).ReturnsOnly fun w v =>
      ∃ b, v = .bytes b ∧ b.length = n.toNat ∧ (Transfer.bin ep.bulkIn n.toNat, Reply.ok b) ∈ w := by
  rw [runRead_eq]
  refine callTransfer_returnsOnly fun status e _ => ?_
  split
  · refine callTransfer_returnsOnly fun _ e _ => callTransfer_returnsOnly fun b e hcount => ?_
    exact callTransfer_returnsOnly fun _ e _ => ⟨b, rfl, countOk_bin hcount, by simp⟩
  · exact (by decide : ResultCode.busBusy ≠ .ok)

/-- A machine that shows a run and delivers `OK` shows one that returned that value. -/
theorem State.showsRun.of_ok {s t : State} {p : Run} {v : Value} {P : List (Transfer × Reply) → Value → Prop}
    (h : s.showsRun p t) (hok : t.responses = s.responses ++ [⟨.eng, ⟨.ok, v⟩⟩]) (hp : p.ReturnsOnly P) : P p.wire v := by
  obtain ⟨-, -, hend⟩ := h
  unfold Run.ReturnsOnly at hp
  cases hending : p.ending with
  | returned v' =>
    simp only [hending] at hend hp
    obtain ⟨-, -, -, -, hresp⟩ := hend
    obtain rfl : v' = v := by simpa [hresp] using hok
    exact hp
  | raised c =>
    simp only [hending] at hend hp
    obtain ⟨-, -, -, -, hresp⟩ := hend
    simp [hresp, hp] at hok
  | waiting x =>
    simp only [hending] at hend
    obtain ⟨-, -, -, -, hresp⟩ := hend
    simp [hresp] at hok

/-- Settles O39: the machine shows the pseudocode's run, which returns the bytes of the bulk-in alone. -/
theorem readReturnsExactlyLengthBytes : Obligations.ReadReturnsExactlyLengthBytes := by
  intro s s1 t a n st sp v ha hr ho hexec hafter hresp
  obtain ⟨s1', t', hexec', hafter', hshows⟩ := readRunsItsPseudocode s a n st sp ha hr ho
  obtain rfl : s1 = s1' := Host.Outcome.next.inj (hexec.symm.trans hexec')
  obtain rfl : t = t' := Host.Outcome.next.inj (hafter.symm.trans hafter')
  obtain ⟨b, hv, hlen, hmem⟩ := hshows.of_ok hresp (runRead_returnsOnly ..)
  exact ⟨b, _, hv, hlen, hshows.1, hmem⟩

/-! A RESET and another -/

/-- The state after a RESET of the host whose two transfers succeed. -/
def State.afterReset (s : State) (e : Env) : State :=
  { s with
    td := { s.td with op := .reset, len := 0#16 }, seq := .idle, err := .ok, outstanding := none, env := e
    wire := s.wire ++ [(.ctl cwResetRd, .ok []), (.ctl cwResetWr, .ok [])]
    responses := s.responses ++ [⟨.eng, ⟨.ok, .none⟩⟩] }

/-- A RESET that is accepted and whose transfers succeed ends in two steps (40_engine_ops.md R142). -/
theorem reset_runs {s : State} {rs : List Reply} (ha : s.accepting = true)
    (henv : s.env = .oracle (.ok [] :: .ok [] :: rs)) :
    ∃ s1, exec .reset s = .next s1 ∧ s1.after 2 = .next (s.afterReset (.oracle rs)) := by
  obtain ⟨-, -, -, hh⟩ := (State.accepting_iff s).1 ha
  have hstart : (s.latch .reset).env = .oracle (.ok [] :: .ok [] :: rs) := (s.latch_env_wire .reset).1.trans henv
  let m : State := ((s.latch .reset).returned (.ctl cwResetRd) (.ok []) (.oracle (.ok [] :: rs))).goto .resetWr
  have hrd : step (s.latch .reset) = .next m :=
    step_of_answer (x := .ctl cwResetRd) (bytes := []) rfl (by rw [hstart]; rfl) rfl
  have hdone : (m.returned (.ctl cwResetWr) (.ok []) (.oracle rs)).returnOk .none = s.afterReset (.oracle rs) := by
    rw [State.returnOk, State.endEngine_of_no_hold (m.returned _ _ _) _ _ hh]
    simp [m, State.afterReset, State.latch, State.returned, State.goto]
  have hwr : step m = .next (s.afterReset (.oracle rs)) := by
    rw [step_of_answer (s := m) (x := .ctl cwResetWr) (bytes := []) rfl rfl rfl,
      phaseDone_of_resetWr (s := m.returned _ _ _) rfl, hdone]
  refine ⟨s.latch .reset, exec_engineRequest_of_accepting s .reset rfl rfl ha, ?_⟩
  rw [State.after_succ_of_next 1 _ m hrd, State.after_succ_of_next 0 m _ hwr, State.after_zero]

/-- Settles O40: the state after a RESET accepts another one. -/
theorem resetIsIdempotent : Obligations.ResetIsIdempotent := by
  intro s rs ha hr henv
  obtain ⟨hb, hf, -, hh⟩ := (State.accepting_iff s).1 ha
  obtain ⟨s1, hexec, hafter⟩ := reset_runs ha henv
  have hagain : (s.afterReset (.oracle ([.ok [], .ok []] ++ rs))).accepting = true :=
    (State.accepting_iff _).2 ⟨hb, hf, rfl, hh⟩
  obtain ⟨s2, hexec', hafter'⟩ := reset_runs hagain rfl
  exact ⟨s1, _, s2, _, hexec, hafter, hexec', hafter', rfl, rfl, rfl, rfl⟩

end Sys2Proof.Machine
end

section
/-! The memory-device operations as requests: the bytes of an address, the range check, and the plan a view takes hold of
the engine with (41_memory_device_ops.md R171 to R179). -/

namespace Sys2Proof.Machine

/-! The bytes of an address and the range check -/

/-- Byte `i` of an address is its digit `w - 1 - i` to base 256. -/
theorem bigEndian_getD {w i : Nat} (a : Nat) (hi : i < w) :
    ((bigEndian w a).getD i 0#8).toNat = a / 256 ^ (w - 1 - i) % 256 := by
  induction w generalizing i with
  | zero => omega
  | succ w ih =>
    cases i with
    | zero => simp [bigEndian]
    | succ i =>
      have hdigit : w - (i + 1) = w - 1 - i := by omega
      simpa [bigEndian, hdigit] using ih (i := i) (by omega)

/-- Settles O8: the bytes are the digits of the address. -/
theorem prefixIsBigEndian : Obligations.PrefixIsBigEndian :=
  fun w a => ⟨bigEndian_length w a, fun _ => bigEndian_getD a⟩

/-- `RangeOK` (41_memory_device_ops.md R171). -/
theorem rangeOk_iff (aw : AddrWidth) (sa : StartAddr) (n : Nat) :
    rangeOk aw sa n = true ↔ sa.toNat + n ≤ 256 ^ aw.bytes ∧ sa.toNat < 256 ^ aw.bytes := by
  rw [rangeOk, Bool.and_eq_true, decide_eq_true_iff, decide_eq_true_iff, spaceSize]

/-! Requests in a state that accepts -/

section
variable {s : State} {V : View} {v : ViewId}

/-- In a state that accepts, an MWRITE that fits its view takes the engine. -/
theorem exec_mwrite_of_accepting (ha : s.accepting = true) (hV : s.findView v = some V) {d : List Byte}
    (hf : fitsView V.aw d = true) (sa : StartAddr) :
    exec (.mwrite v sa d) s = .next (s.takeEngine V sa d.length (writePlan V sa d)) := by
  simp [exec, execMwrite, hV, hf, ha]

/-- In a state that accepts, an MREAD takes the engine. -/
theorem exec_mread_of_accepting (ha : s.accepting = true) (hV : s.findView v = some V) (sa : StartAddr) (n : Half) :
    exec (.mread v sa n) s = .next (s.takeEngine V sa n.toNat (readPlan V sa n)) := by
  simp [exec, execMread, hV, ha]

/-- In range, the view holds the engine with the plan. -/
theorem State.takeEngine_of_inRange (hV : s.findView v = some V) {sa : StartAddr} {n : Nat}
    (hr : rangeOk V.aw sa n = true) (plan : List Instr) :
    s.takeEngine V sa n plan = { s with hold := some ⟨v, plan, none⟩ } := by
  obtain ⟨-, rfl⟩ := s.findView_some v V hV
  rw [State.takeEngine, if_pos hr]

/-- Out of range, the view never holds the engine (60_exceptions.md R210). -/
theorem State.takeEngine_of_outOfRange (hV : s.findView v = some V) {sa : StartAddr} {n : Nat}
    (hr : rangeOk V.aw sa n = false) (plan : List Instr) : s.takeEngine V sa n plan = s.raiseRange v := by
  obtain ⟨-, rfl⟩ := s.findView_some v V hV
  simp [State.takeEngine, hr]

end

/-- Settles O28: `raiseRange` writes `ERR` and the response alone. -/
theorem outOfRangeIssuesNothing : Obligations.OutOfRangeIssuesNothing := by
  refine ⟨rangeOk_iff, fun s V v sa d ha hV hf hr => ?_, fun s V v sa n ha hV hr => ?_⟩
  · rw [exec_mwrite_of_accepting ha hV hf, State.takeEngine_of_outOfRange hV hr]
    rfl
  · rw [exec_mread_of_accepting ha hV, State.takeEngine_of_outOfRange hV hr]
    rfl

/-- Settles O29: the plan is `writePlan`. -/
theorem mwritePlansOneWrite : Obligations.MwritePlansOneWrite := by
  intro s V v sa d ha hV hf hfit hsa
  rw [exec_mwrite_of_accepting ha hV ((fitsView_iff _ _).2 hf),
    State.takeEngine_of_inRange hV ((rangeOk_iff _ _ _).2 ⟨hfit, hsa⟩)]
  rfl

/-- Settles O30: the plan is `readPlan`. -/
theorem mreadPlansThreeOperations : Obligations.MreadPlansThreeOperations := by
  intro s V v sa n ha hV hfit hsa
  rw [exec_mread_of_accepting ha hV, State.takeEngine_of_inRange hV ((rangeOk_iff _ _ _).2 ⟨hfit, hsa⟩)]
  rfl

/-! DUMP -/

/-- In a state that accepts, a DUMP begins at its view. -/
theorem exec_dump_of_accepting {s : State} {V : View} {v : ViewId} (ha : s.accepting = true)
    (hV : s.findView v = some V) (k : Half) :
    exec (.dump v k) s
      = .next { s.updateView v (View.startDump k) with err := if k = 0#16 then .ok else s.err } := by
  simp [exec, execDump, hV, ha]

/-- Settles O31: `View.startDump` is the change of the view. -/
theorem dumpStartsAtLineZero : Obligations.DumpStartsAtLineZero :=
  fun _ _ _ k ha hV => exec_dump_of_accepting ha hV k

/-- In a state that accepts, the demand of the requester served next is taken from its port and served (R178). -/
theorem step_of_demand {s : State} {k : Nat} {v : ViewId} (ha : s.accepting = true) (hk : s.chosen = some k)
    (hw : s.waitingAt k = some (.next v)) : step s = .next ((s.take k).demandElement v) := by
  obtain ⟨-, -, hidle, hh⟩ := (State.accepting_iff s).1 ha
  have hfetch : s.fetch = .element v (s.take k) := by
    rw [State.fetch_of_ports s (.inl ⟨hidle, hh⟩)]
    simp [State.fetchPort, hk, hw, ha]
  simp only [step, hfetch]

/-- The address of a line of a DUMP is no smaller for being held in 32 bits: a line count has 16. -/
theorem lineAddress_toNat {n : Nat} {k : Half} (h : n < k.toNat) : (lineAddress n).toNat = n * 32 := by
  have hk := k.isLt
  rw [lineAddress, BitVec.toNat_ofNat, Config.dumpBlock, Nat.mod_eq_of_lt (by omega)]

/-- A line of a DUMP is in range exactly when its 32 bytes are in the view's space. -/
theorem rangeOk_lineAddress_iff {n : Nat} {k : Half} (h : n < k.toNat) (aw : AddrWidth) :
    rangeOk aw (lineAddress n) Config.dumpBlock = true ↔ n * 32 + 32 ≤ 256 ^ aw.bytes := by
  rw [rangeOk_iff, lineAddress_toNat h, Config.dumpBlock]
  omega

/-- Settles O32: the two ranges are the two outcomes of the range check. -/
theorem dumpDemandReadsOneLine : Obligations.DumpDemandReadsOneLine := by
  intro s k V v n ha hk hw hV hdump hline
  have hrange := rangeOk_lineAddress_iff hline V.aw
  have htake : (s.take k).findView v = some V := hV
  obtain ⟨-, hid⟩ := s.findView_some v V hV
  rw [step_of_demand ha hk hw]
  constructor
  · intro hfit
    simp only [State.demandElement, htake, hrange.2 hfit, if_true, hid]
    rfl
  · intro hover
    have hout : ¬ rangeOk V.aw (lineAddress V.line) Config.dumpBlock = true := by rw [hrange]; omega
    simp only [State.demandElement, htake, if_neg hout]
    rfl

/-- The last engine operation of a DUMP element ends: the element is made of its bytes, and the view goes on to the next
line (R177). -/
theorem State.endEngine_of_element (s : State) (p : Phase) {v : ViewId} {a : StartAddr} (bytes : List Byte)
    (hh : s.hold = some ⟨v, [], some a⟩) :
    s.endEngine p ⟨.ok, .bytes bytes⟩ =
      { s with
        seq := p
        err := .ok
        hold := none
        views := s.views.map fun W => if W.id = v then W.nextLine else W
        responses := s.responses ++ [⟨.engToView v, ⟨.ok, .bytes bytes⟩⟩, ⟨.mem v, ⟨.ok, .element a bytes⟩⟩] } := by
  simp [State.endEngine, hh, State.viewReceives, State.compositeDone, State.deliver, State.updateView]

/-- After a delivered element `LINE` is one on, and the DUMP goes on while there is a line. -/
theorem View.nextLine_eq (V : View) :
    V.nextLine = { V with line := V.line + 1, dump := V.dump.filter fun k => V.line + 1 < k.toNat } := by
  rcases hd : V.dump with _ | k
  · simp [View.nextLine, hd]
  · by_cases hk : V.line + 1 < k.toNat <;> simp [View.nextLine, View.endDump, Option.filter, hd, hk]

/-- The arrival of the completion bytes ends the transaction with its value, for the host or for a view (40_engine_ops.md
R149). -/
theorem step_of_completion_answer {s : State} {e : Env} {x y z : Byte} {v : Value} (hs : s.seq = .completionWait)
    (ho : s.td.op = .write ∨ s.td.op = .read) (hv : s.transactionValue = v)
    (hans : s.env.answer (.int s.ep.interruptIn 3) = some (.ok [x, y, z], e)) :
    step s = .next
      ({ s with
        cmp := ⟨x, y, z⟩, outstanding := none, env := e
        wire := s.wire ++ [(Transfer.int s.ep.interruptIn 3, Reply.ok [x, y, z])] }.endEngine .idle ⟨.ok, v⟩) := by
  rw [step_of_answer (phaseTransfer_of_completionWait hs ho) hans rfl,
    phaseDone_of_completionWait (s := s.returned _ _ _) hs, ← hv]
  rfl

/-- Settles O33: the READ of the element is the last engine operation of the view's plan. -/
theorem dumpElementIsDelivered : Obligations.DumpElementIsDelivered := by
  intro s e v a x y z hs ho hh hans
  have hvalue : s.transactionValue = .bytes s.rbuf := by simp only [State.transactionValue, ho]
  have hstep := step_of_completion_answer hs (.inr ho) hvalue hans
  refine ⟨_, hstep.trans (congrArg _ (State.endEngine_of_element _ .idle s.rbuf hh)), rfl, rfl, rfl, rfl, rfl, ?_⟩
  refine List.map_congr_left fun W _ => ?_
  rw [View.nextLine_eq]
  cases W.dump <;> simp [Option.filter]

end Sys2Proof.Machine
end

section
/-! An MWRITE and an MREAD whose transfers succeed run to their end: the phases of one engine operation, the operations of
a view's plan one after the other, and the two composites (41_memory_device_ops.md R173 to R175). -/

namespace Sys2Proof.Machine

/-- A run goes on from where a shorter one has led. -/
theorem State.after_add_of_next {s u : State} {j : Nat} (h : s.after j = .next u) (k : Nat) :
    s.after (j + k) = u.after k := by
  induction j generalizing s with
  | zero =>
    obtain rfl := Host.Outcome.next.inj h
    rw [Nat.zero_add]
  | succ j ih =>
    obtain ⟨m, hm, hrest⟩ := (State.after_succ_next_iff j s u).1 h
    rw [Nat.succ_add, State.after_succ_of_next (j + k) s m hm, ih hrest]

/-- With a list of replies the next one answers any transfer. -/
theorem answer_of_oracle_cons {s : State} {r : Reply} {rs : List Reply} (henv : s.env = .oracle (r :: rs)) (t : Transfer) :
    s.env.answer t = some (r, .oracle rs) := by
  rw [henv, Env.answer_oracle_cons]

/-! The phases of an engine operation, last first -/

/-- In `k` steps, in which the transfers of `w` return and leave the replies `rs`, the engine operation in progress ends
with `OK` and the value `v`. -/
def State.Completes (s : State) (k : Nat) (w : List (Transfer × Reply)) (rs : List Reply) (v : Value) : Prop :=
  ∃ rbuf sts cmp, s.after k = .next
    ({ s with
      rbuf := rbuf, sts := sts, cmp := cmp, outstanding := none, env := .oracle rs
      wire := s.wire ++ w }.endEngine .idle ⟨.ok, v⟩)

section
variable {s : State} {x y z c0 c1 c2 : Byte} {bytes u1 u2 : List Byte} {rs rs' : List Reply}

/-- The transfer of the phase succeeds, and the operation goes on to its end from the next phase `u`. -/
theorem State.Completes.of_answer {t : Transfer} {u : State} {k : Nat} {w : List (Transfer × Reply)} {v : Value}
    (ht : s.phaseTransfer = some t) (henv : s.env = .oracle (.ok bytes :: rs)) (hc : t.countOk bytes = true)
    (hdone : (s.returned t (.ok bytes) (.oracle rs)).phaseDone bytes = u)
    (hu : u = { s.returned t (.ok bytes) (.oracle rs) with seq := u.seq, rbuf := u.rbuf, sts := u.sts })
    (h : u.Completes k w rs' v) : s.Completes (k + 1) ((t, .ok bytes) :: w) rs' v := by
  obtain ⟨rbuf, sts, cmp, hafter⟩ := h
  have hstep : step s = .next u := by rw [step_of_answer ht (answer_of_oracle_cons henv t) hc, hdone]
  refine ⟨rbuf, sts, cmp, ?_⟩
  rw [State.after_succ_of_next k s u hstep, hafter, hu, List.append_cons]
  rfl

theorem completes_completionWait {v : Value} (hs : s.seq = .completionWait) (ho : s.td.op = .write ∨ s.td.op = .read)
    (hv : s.transactionValue = v) (henv : s.env = .oracle (.ok [c0, c1, c2] :: rs)) :
    s.Completes 1 [(.int s.ep.interruptIn 3, .ok [c0, c1, c2])] rs v :=
  have hstep := step_of_completion_answer hs ho hv (answer_of_oracle_cons henv _)
  ⟨s.rbuf, s.sts, _, State.after_succ_of_next 0 s _ hstep⟩

theorem completes_bulkOut (hs : s.seq = .payloadTransfer) (ho : s.td.op = .write)
    (henv : s.env = .oracle (.ok u2 :: .ok [c0, c1, c2] :: rs)) :
    s.Completes 2 [(.bout s.ep.bulkOut s.pbuf, .ok u2), (.int s.ep.interruptIn 3, .ok [c0, c1, c2])] rs .none :=
  .of_answer (by simp only [State.phaseTransfer, hs, ho]) henv rfl
    (phaseDone_of_bulkOut (s := s.returned _ _ _) hs ho u2) rfl
    (completes_completionWait rfl (.inl ho) (by simp [State.transactionValue, State.returned, State.goto, ho]) rfl)

theorem completes_bulkIn (hs : s.seq = .payloadTransfer) (ho : s.td.op = .read) (hlen : bytes.length = s.td.len.toNat)
    (henv : s.env = .oracle (.ok bytes :: .ok [c0, c1, c2] :: rs)) :
    s.Completes 2 [(.bin s.ep.bulkIn s.td.len.toNat, .ok bytes), (.int s.ep.interruptIn 3, .ok [c0, c1, c2])] rs
      (.bytes bytes) :=
  .of_answer (by simp only [State.phaseTransfer, hs, ho]) henv (by simp [Transfer.countOk, Transfer.asked, hlen])
    (phaseDone_of_bulkIn (s := s.returned _ _ _) hs ho bytes) rfl
    (completes_completionWait rfl (.inr ho) (by simp [State.transactionValue, State.returned, State.goto, ho]) rfl)

theorem completes_writeCommand (hs : s.seq = .commandDispatch) (ho : s.td.op = .write)
    (henv : s.env = .oracle (.ok u1 :: .ok u2 :: .ok [c0, c1, c2] :: rs)) :
    s.Completes 3
      [(.ctl (cwI2cWrite s.td.addr s.td.start s.td.stop s.td.len), .ok u1), (.bout s.ep.bulkOut s.pbuf, .ok u2),
        (.int s.ep.interruptIn 3, .ok [c0, c1, c2])] rs .none :=
  .of_answer (by simp only [State.phaseTransfer, hs, ho]) henv rfl
    (phaseDone_of_commandDispatch (s := s.returned _ _ _) hs u1) rfl
    (completes_bulkOut rfl ho rfl)

theorem completes_readCommand (hs : s.seq = .commandDispatch) (ho : s.td.op = .read)
    (hlen : bytes.length = s.td.len.toNat) (henv : s.env = .oracle (.ok u1 :: .ok bytes :: .ok [c0, c1, c2] :: rs)) :
    s.Completes 3
      [(.ctl (cwI2cRead s.td.addr s.td.start s.td.stop s.td.len), .ok u1), (.bin s.ep.bulkIn s.td.len.toNat, .ok bytes),
        (.int s.ep.interruptIn 3, .ok [c0, c1, c2])] rs (.bytes bytes) :=
  .of_answer (by simp only [State.phaseTransfer, hs, ho]) henv rfl
    (phaseDone_of_commandDispatch (s := s.returned _ _ _) hs u1) rfl
    (completes_bulkIn rfl ho hlen rfl)

/-- After a clear status the operation goes on with its command (40_engine_ops.md R147). -/
theorem completes_statusCheck {k : Nat} {w : List (Transfer × Reply)} {v : Value} (hs : s.seq = .statusCheck)
    (ho : s.td.op = .write ∨ s.td.op = .read) (hclear : x.getLsbD 0 = false)
    (henv : s.env = .oracle (.ok [x, y, z] :: rs))
    (h : State.Completes
      { s.returned (.ctl cwGetStatus) (.ok [x, y, z]) (.oracle rs) with
        seq := .commandDispatch, sts := ⟨x, y, z⟩ } k w rs' v) :
    s.Completes (k + 1) ((.ctl cwGetStatus, .ok [x, y, z]) :: w) rs' v := by
  have hnotBusy : interpret (threeBytes [x, y, z]) = true := by simpa [interpret, busyFlag, threeBytes] using hclear
  have hdone := phaseDone_of_statusCheck (s := s.returned (.ctl cwGetStatus) (.ok [x, y, z]) (.oracle rs)) hs ho [x, y, z]
  rw [if_pos hnotBusy] at hdone
  exact .of_answer (phaseTransfer_of_statusCheck hs (by rcases ho with ho | ho <;> simp [ho])) henv rfl hdone rfl h

theorem completes_resetWr (hs : s.seq = .resetWr) (ho : s.td.op = .reset) (henv : s.env = .oracle (.ok [] :: rs)) :
    s.Completes 1 [(.ctl cwResetWr, .ok [])] rs .none := by
  have ht : s.phaseTransfer = some (.ctl cwResetWr) := by simp only [State.phaseTransfer, hs, ho]
  refine ⟨s.rbuf, s.sts, s.cmp, State.after_succ_of_next 0 s _ ?_⟩
  rw [step_of_answer ht (answer_of_oracle_cons henv _) rfl, phaseDone_of_resetWr (s := s.returned _ _ _) hs]
  rfl

theorem completes_resetRd (hs : s.seq = .resetRd) (ho : s.td.op = .reset)
    (henv : s.env = .oracle (.ok [] :: .ok [] :: rs)) :
    s.Completes 2 [(.ctl cwResetRd, .ok []), (.ctl cwResetWr, .ok [])] rs .none :=
  .of_answer (by simp only [State.phaseTransfer, hs, ho]) henv rfl
    (phaseDone_of_resetRd (s := s.returned _ _ _) hs []) rfl
    (completes_resetWr rfl ho rfl)

/-! A latched request runs to its end -/

variable {ep : EndpointSet} (H : Option Hold)

/-- A RESET is two commands (40_engine_ops.md R142). -/
theorem completes_latch_reset (henv : s.env = .oracle (.ok [] :: .ok [] :: rs)) :
    State.Completes { s.latch .reset with hold := H } 2 [(.ctl cwResetRd, .ok []), (.ctl cwResetWr, .ok [])] rs .none :=
  completes_resetRd rfl rfl henv

/-- A WRITE is one transaction of four transfers (40_engine_ops.md R148). -/
theorem completes_latch_write (a : DevAddr) (p : List Byte) (st sp : Bool) (hclear : x.getLsbD 0 = false)
    (hep : s.ep = ep) (henv : s.env = .oracle (.ok [x, y, z] :: .ok u1 :: .ok u2 :: .ok [c0, c1, c2] :: rs)) :
    State.Completes { s.latch (.write a p st sp) with hold := H } 4
      [(.ctl cwGetStatus, .ok [x, y, z]), (.ctl (cwI2cWrite a st sp (BitVec.ofNat 16 p.length)), .ok u1),
        (.bout ep.bulkOut p, .ok u2), (.int ep.interruptIn 3, .ok [c0, c1, c2])] rs .none := by
  subst hep
  exact completes_statusCheck rfl (.inl rfl) hclear henv (completes_writeCommand rfl rfl rfl)

/-- A READ is one transaction of four transfers (40_engine_ops.md R150). -/
theorem completes_latch_read (a : DevAddr) {n : Half} (st sp : Bool) (hclear : x.getLsbD 0 = false)
    (hlen : bytes.length = n.toNat) (hep : s.ep = ep)
    (henv : s.env = .oracle (.ok [x, y, z] :: .ok u1 :: .ok bytes :: .ok [c0, c1, c2] :: rs)) :
    State.Completes { s.latch (.read a n st sp) with hold := H } 4
      [(.ctl cwGetStatus, .ok [x, y, z]), (.ctl (cwI2cRead a st sp n), .ok u1), (.bin ep.bulkIn n.toNat, .ok bytes),
        (.int ep.interruptIn 3, .ok [c0, c1, c2])] rs (.bytes bytes) := by
  subst hep
  exact completes_statusCheck rfl (.inr rfl) hclear henv (completes_readCommand rfl rfl hlen rfl)

end

/-! The operations of a view's plan -/

/-- In `k` steps, in which the transfers of `w` return and leave the replies `rs`, the composite of the view that holds the
engine ends with `OK`, and the responses `ds` are delivered. -/
def State.Delivers (s : State) (k : Nat) (w : List (Transfer × Reply)) (rs : List Reply) (ds : List Delivery) : Prop :=
  ∃ t, s.after k = .next t ∧ t.wire = s.wire ++ w ∧ t.env = .oracle rs ∧ t.seq = .idle ∧ t.err = .ok ∧ t.hold = none
    ∧ t.views = s.views ∧ t.responses = s.responses ++ ds

section
variable {s : State} {v : ViewId} {i : Instr} {rest : List Instr} {k k' : Nat} {w w' : List (Transfer × Reply)}
  {rs rs' : List Reply} {val : Value} {ds : List Delivery}

/-- A run to the end of the composite goes on from where a shorter one has led. -/
theorem State.Delivers.after {u : State} {ds' : List Delivery} (h : s.after k = .next u) (hwire : u.wire = s.wire ++ w)
    (hviews : u.views = s.views) (hresp : u.responses = s.responses ++ ds) (hu : u.Delivers k' w' rs ds') :
    s.Delivers (k + k') (w ++ w') rs (ds ++ ds') := by
  obtain ⟨t, ht, hwire', henv, hseq, herr, hhold, hviews', hresp'⟩ := hu
  exact ⟨t, (State.after_add_of_next h k').trans ht, by rw [hwire', hwire, List.append_assoc], henv, hseq, herr, hhold,
    hviews'.trans hviews, by rw [hresp', hresp, List.append_assoc]⟩

/-- The view that holds a ready engine issues its next request, which runs to its end. -/
theorem after_of_viewRequest (hr : s.ready = true) (hh : s.hold = some ⟨v, i :: rest, none⟩)
    (hi : i.isEngineRequest = true ∧ i.wellFormed = true)
    (h : State.Completes { s.latch i with hold := some ⟨v, rest, none⟩ } k w rs val) :
    ∃ td pbuf rbuf sts cmp, s.after (k + 1) = .next
      ({ s with
        td := td, pbuf := pbuf, rbuf := rbuf, sts := sts, cmp := cmp, outstanding := none, env := .oracle rs
        wire := s.wire ++ w, hold := some ⟨v, rest, none⟩ }.endEngine .idle ⟨.ok, val⟩) := by
  have hidle := ((State.ready_iff s).1 hr).2.2
  have hstep : step s = .next { s.latch i with hold := some ⟨v, rest, none⟩ } :=
    (step_of_hold hidle hh rfl).trans (exec_engineRequest_of_hold s i _ rest hi.1 hi.2 hr hh rfl)
  rw [s.latch_frame i] at h hstep
  obtain ⟨rbuf, sts, cmp, hafter⟩ := h
  exact ⟨_, _, rbuf, sts, cmp, (State.after_succ_of_next k s _ hstep).trans hafter⟩

/-- The last operation of the plan ends the composite, with its value (41_memory_device_ops.md R173, R174). -/
theorem delivers_of_last (hr : s.ready = true) (hh : s.hold = some ⟨v, [i], none⟩)
    (hi : i.isEngineRequest = true ∧ i.wellFormed = true)
    (h : State.Completes { s.latch i with hold := some ⟨v, [], none⟩ } k w rs val) :
    s.Delivers (k + 1) w rs [⟨.engToView v, ⟨.ok, val⟩⟩, ⟨.mem v, ⟨.ok, val⟩⟩] := by
  obtain ⟨td, pbuf, rbuf, sts, cmp, hafter⟩ := after_of_viewRequest hr hh hi h
  rw [State.endEngine_of_last _ _ _ ⟨v, [], none⟩ rfl rfl rfl rfl] at hafter
  exact ⟨_, hafter, rfl, rfl, rfl, rfl, rfl, rfl, rfl⟩

/-- Any other operation of the plan leaves the engine ready, and held with the rest of the plan. -/
theorem delivers_of_todo (hr : s.ready = true) (hh : s.hold = some ⟨v, i :: rest, none⟩) (hne : rest ≠ [])
    (hi : i.isEngineRequest = true ∧ i.wellFormed = true)
    (h : State.Completes { s.latch i with hold := some ⟨v, rest, none⟩ } k w rs val)
    (hrest : ∀ u : State, u.ready = true → u.hold = some ⟨v, rest, none⟩ → u.env = .oracle rs → u.ep = s.ep →
      u.Delivers k' w' rs' ds) :
    s.Delivers (k + 1 + k') (w ++ w') rs' (⟨.engToView v, ⟨.ok, val⟩⟩ :: ds) := by
  obtain ⟨td, pbuf, rbuf, sts, cmp, hafter⟩ := after_of_viewRequest hr hh hi h
  rw [State.endEngine_of_todo _ _ _ ⟨v, rest, none⟩ rfl hne rfl] at hafter
  obtain ⟨hb, hf, -⟩ := (State.ready_iff s).1 hr
  exact .after hafter rfl rfl rfl (hrest _ ((State.ready_iff _).2 ⟨hb, hf, rfl⟩) rfl rfl rfl)

end

/-! The composites -/

/-- A state that accepts is ready, whoever then holds the engine. -/
theorem ready_of_accepting {s : State} (ha : s.accepting = true) (H : Option Hold) :
    State.ready { s with hold := H } = true := by
  obtain ⟨hb, hf, hidle, -⟩ := (State.accepting_iff s).1 ha
  exact (State.ready_iff _).2 ⟨hb, hf, hidle⟩

/-- Settles O34: the plan is one WRITE. -/
theorem mwriteIsOneTransaction : Obligations.MwriteIsOneTransaction := by
  intro s V v sa d x y z c0 c1 c2 u1 u2 rest ha _ hV hf hrange hclear henv
  let s1 : State := { s with hold := some ⟨v, writePlan V sa d, none⟩ }
  have hexec : exec (.mwrite v sa d) s = .next s1 := by
    rw [exec_mwrite_of_accepting ha hV hf, State.takeEngine_of_inRange hV hrange]
  have hready : s1.ready = true := ready_of_accepting ha _
  have hrequest := writePlan_requests V sa d hf
  rw [writePlan, List.forall_mem_singleton] at hrequest
  have hrun := delivers_of_last hready rfl hrequest (completes_latch_write _ _ _ _ _ hclear rfl henv)
  rw [List.length_append, bigEndian_length] at hrun
  obtain ⟨t, ht⟩ := hrun
  exact ⟨s1, t, hexec, ht⟩

/-- Settles O35: the plan is a RESET, a WRITE and a READ. -/
theorem mreadIsResetAndTwoTransactions : Obligations.MreadIsResetAndTwoTransactions := by
  intro s V v sa n x y z c0 c1 c2 x' y' z' d0 d1 d2 u1 u2 u3 data rest ha _ hV hrange hclear hclear' hlen henv
  let s1 : State := { s with hold := some ⟨v, readPlan V sa n, none⟩ }
  have hexec : exec (.mread v sa n) s = .next s1 := by
    rw [exec_mread_of_accepting ha hV, State.takeEngine_of_inRange hV hrange]
  have hready : s1.ready = true := ready_of_accepting ha _
  have hrequest := readPlan_requests V sa n
  simp only [readPlan, List.forall_mem_cons] at hrequest
  obtain ⟨hreset, hwrite, hread, -⟩ := hrequest
  have hrun := delivers_of_todo hready rfl (by simp) hreset (completes_latch_reset _ henv) fun _ hr hh he hp =>
    delivers_of_todo hr hh (by simp) hwrite (completes_latch_write _ _ _ _ _ hclear hp he) fun _ hr' hh' he' hp' =>
      delivers_of_last hr' hh' hread (completes_latch_read _ _ _ _ hclear' hlen (hp'.trans hp) he')
  rw [bigEndian_length] at hrun
  obtain ⟨t, ht⟩ := hrun
  exact ⟨s1, t, hexec, ht⟩

end Sys2Proof.Machine
end

section
/-! The five bridge commands (42_bridge_commands.md): when each is due, what it transfers then, and what it leaves
unchanged. -/

namespace Sys2Proof

/-! The words of the commands -/

/-- The bits of the control word of a transaction command (30_encoding.md R101): the code, the value field and the index
field; the direction and the data length are zero. -/
theorem transactionCommand_bits (code : Code) (v n : Half) :
    (ControlWord.mk .h2d code v n 0#16).bits = field 57 48 code ||| (v.setWidth 57 <<< 32) ||| (n.setWidth 57 <<< 16) := by
  simp [ControlWord.bits, field, Direction.bit]

/-- Settles O7: the three fixed words are constants, and the two transaction words differ in the code. -/
theorem controlWordsOfTheCommands : Obligations.ControlWordsOfTheCommands :=
  ⟨rfl, rfl, rfl, fun a st sp n => transactionCommand_bits Config.codeI2cWrite (pack a st sp) n,
    fun a st sp n => transactionCommand_bits Config.codeI2cRead (pack a st sp) n⟩

/-- The control word an instruction is sent with, if it is a bridge command. -/
def Instr.commandWord : Instr → Option ControlWord
  | .resetRd => some cwResetRd
  | .resetWr => some cwResetWr
  | .getStatus => some cwGetStatus
  | .i2cWrite a st sp n => some (cwI2cWrite a st sp n)
  | .i2cRead a st sp n => some (cwI2cRead a st sp n)
  | _ => none

end Sys2Proof

namespace Sys2Proof.Machine

/-! When a command is due -/

/-- The phase, and for a transaction command the latched operands, in which the engine issues a bridge command
(42_bridge_commands.md R190 to R195). -/
def State.Due (s : State) : Instr → Prop
  | .resetRd => s.seq = .resetRd
  | .resetWr => s.seq = .resetWr
  | .getStatus => s.seq = .statusCheck ∧ s.td.op ≠ .reset
  | .i2cWrite a st sp n => s.seq = .commandDispatch ∧ s.td = ⟨.write, a, st, sp, n⟩
  | .i2cRead a st sp n => s.seq = .commandDispatch ∧ s.td = ⟨.read, a, st, sp, n⟩
  | _ => False

section
variable {s t : State} {i : Instr} {c : ControlWord}

/-- A bridge command that is due transfers its control word, and goes on as the phase does. -/
theorem exec_of_due (hd : s.Due i) (hi : i.commandWord = some c) :
    exec i s = .next (s.perform (.ctl c) State.phaseDone) := by
  cases i with
  | resetRd => cases hi; exact execResetRd_of_due s hd
  | resetWr => cases hi; exact execResetWr_of_due s hd
  | getStatus =>
    cases hi
    obtain ⟨hs, ho⟩ := hd
    exact execGetStatus_of_due s hs ho
  | i2cWrite a st sp n =>
    cases hi
    obtain ⟨hs, htd⟩ := hd
    simpa only [exec, htd] using execI2cWrite_of_due s hs (by rw [htd])
  | i2cRead a st sp n =>
    cases hi
    obtain ⟨hs, htd⟩ := hd
    simpa only [exec, htd] using execI2cRead_of_due s hs (by rw [htd])
  | _ => cases hi

/-- A bridge command that is not due is refused. -/
theorem exec_of_not_due (hd : ¬ s.Due i) (hi : i.commandWord = some c) : exec i s = .refused .commandNotDue := by
  cases i with
  | resetRd | resetWr | getStatus | i2cWrite | i2cRead => exact if_neg hd
  | _ => cases hi

/-- A bridge command with a next state was due, and that state is what its transfer leads to. -/
theorem due_of_exec_next (hi : i.commandWord = some c) (h : exec i s = .next t) :
    s.Due i ∧ t = s.perform (.ctl c) State.phaseDone := by
  by_cases hd : s.Due i
  · rw [exec_of_due hd hi] at h
    exact ⟨hd, (Host.Outcome.next.inj h).symm⟩
  · rw [exec_of_not_due hd hi] at h
    cases h

/-- A bridge command that is due and returns a success with the right byte count. -/
theorem exec_of_due_of_answer {bytes : List Byte} {e : Env} (hd : s.Due i) (hi : i.commandWord = some c)
    (hans : s.env.answer (.ctl c) = some (.ok bytes, e)) (hc : (Transfer.ctl c).countOk bytes = true) :
    exec i s = .next ((s.returned (.ctl c) (.ok bytes) e).phaseDone bytes) := by
  rw [exec_of_due hd hi, State.perform_of_ok s _ _ bytes e hans hc]

end

/-- Settles O16: the first command goes on to the second, which ends the RESET. -/
theorem resetCommandsComplete : Obligations.ResetCommandsComplete := by
  refine ⟨fun s e hs hans => ?_, fun s e hs hh hans => ?_, fun s e h hs hh ht hans => ?_⟩
  · rw [exec_of_due_of_answer (i := .resetRd) hs rfl hans rfl, phaseDone_of_resetRd (s := s.returned _ _ _) hs]
    rfl
  · rw [exec_of_due_of_answer (i := .resetWr) hs rfl hans rfl, phaseDone_of_resetWr (s := s.returned _ _ _) hs]
    exact congrArg Host.Outcome.next (State.endEngine_of_no_hold _ _ _ hh)
  · rw [exec_of_due_of_answer (i := .resetWr) hs rfl hans rfl, phaseDone_of_resetWr (s := s.returned _ _ _) hs]
    exact congrArg Host.Outcome.next (State.endEngine_of_todo _ _ _ h hh ht rfl)

/-- Settles O17: the three bytes are latched, and their busy flag is the value of a STATUS and the way of a transaction. -/
theorem getStatusCompletes : Obligations.GetStatusCompletes := by
  intro s e x y z hs hans
  have hexec (ho : s.td.op ≠ .reset) := exec_of_due_of_answer (i := .getStatus) ⟨hs, ho⟩ rfl hans rfl
  refine ⟨fun ho hh => ?_, fun ho => ?_⟩
  · rw [hexec (by simp [ho]), phaseDone_of_status (s := s.returned _ _ _) hs ho]
    exact congrArg Host.Outcome.next (State.endEngine_of_no_hold _ _ _ hh)
  · have hway : (if interpret (threeBytes [x, y, z]) then Phase.commandDispatch else .abort)
        = if x.getLsbD 0 then .abort else .commandDispatch := by
      have hread : interpret (threeBytes [x, y, z]) = !x.getLsbD 0 := rfl
      rw [hread]
      cases x.getLsbD 0 <;> rfl
    rw [hexec (by rcases ho with ho | ho <;> simp [ho]), phaseDone_of_statusCheck (s := s.returned _ _ _) hs ho, hway]
    rfl

/-- Settles O18: either command goes on to the bulk transfer; no byte count is asked of its reply. -/
theorem transactionCommandsComplete : Obligations.TransactionCommandsComplete := by
  intro s e a st sp n bytes hs
  refine ⟨fun htd hans => ?_, fun htd hans => ?_⟩
  · rw [exec_of_due_of_answer (i := .i2cWrite a st sp n) ⟨hs, htd⟩ rfl hans rfl,
      phaseDone_of_commandDispatch (s := s.returned _ _ _) hs]
    rfl
  · rw [exec_of_due_of_answer (i := .i2cRead a st sp n) ⟨hs, htd⟩ rfl hans rfl,
      phaseDone_of_commandDispatch (s := s.returned _ _ _) hs]
    rfl

/-- Settles O19: outside its phase, or with other operands, a command is not due. -/
theorem commandsAreNeverIssuedElsewhere : Obligations.CommandsAreNeverIssuedElsewhere := fun _ =>
  ⟨fun hs => exec_of_not_due (i := .resetRd) hs rfl, fun hs => exec_of_not_due (i := .resetWr) hs rfl,
    fun hs => exec_of_not_due (i := .getStatus) (fun hd => hs hd.1) rfl,
    fun a st sp n => ⟨fun h => exec_of_not_due (i := .i2cWrite a st sp n) (not_and_or.2 h) rfl,
      fun h => exec_of_not_due (i := .i2cRead a st sp n) (not_and_or.2 h) rfl⟩⟩

/-! What a command leaves unchanged -/

/-- What no bridge command writes: the latches `TD` and `PBUF`, `RBUF`, `CMP`, `EP`, `BOUND`, what waits at the ports,
`XFER_TIMEOUT` and the count of grants. -/
def State.unwritten (s : State) :
    Descriptor × List Byte × List Byte × ThreeBytes × EndpointSet × Bool × List (List Presented) × Option Nat × Nat :=
  (s.td, s.pbuf, s.rbuf, s.cmp, s.ep, s.bound, s.requesters, s.timeout, s.grants)

@[simp] theorem State.endEngine_unwritten (s : State) (p : Phase) (r : Response) :
    (s.endEngine p r).unwritten = s.unwritten := by
  simp [State.unwritten]

/-- What follows the success of a bridge command writes none of these registers, and `STS` for `GET_STATUS` alone. -/
theorem State.Due.phaseDone_frame {s : State} {i : Instr} (hd : s.Due i) (bytes : List Byte) :
    (s.phaseDone bytes).unwritten = s.unwritten ∧ ((s.phaseDone bytes).sts = s.sts ∨ i = .getStatus) := by
  cases i with
  | resetRd =>
    rw [phaseDone_of_resetRd hd]
    exact ⟨rfl, .inl rfl⟩
  | resetWr =>
    rw [phaseDone_of_resetWr hd]
    exact ⟨State.endEngine_unwritten .., .inl (State.endEngine_sts ..)⟩
  | getStatus =>
    obtain ⟨hs, ho⟩ := hd
    refine ⟨?_, .inr rfl⟩
    cases hop : s.td.op with
    | reset => exact absurd hop ho
    | status =>
      rw [phaseDone_of_status hs hop]
      exact State.endEngine_unwritten ..
    | write | read =>
      rw [phaseDone_of_statusCheck hs (by simp [hop])]
      rfl
  | i2cWrite | i2cRead =>
    rw [phaseDone_of_commandDispatch hd.1]
    exact ⟨rfl, .inl rfl⟩
  | _ => cases hd

/-- Whatever the environment answers, a bridge command that is due writes none of these registers, and `STS` for
`GET_STATUS` alone. -/
theorem State.Due.perform_frame {s : State} {i : Instr} (hd : s.Due i) (x : Transfer) :
    (s.perform x State.phaseDone).unwritten = s.unwritten
      ∧ ((s.perform x State.phaseDone).sts = s.sts ∨ i = .getStatus) := by
  rcases s.perform_phaseDone_cases x with hto | ⟨bytes, e, -, hto⟩ | ⟨r, e, code, -, hto⟩ <;> rw [hto]
  · exact ⟨rfl, .inl rfl⟩
  · have hd' : (s.returned x (.ok bytes) e).Due i := hd
    exact hd'.phaseDone_frame bytes
  · exact ⟨State.endEngine_unwritten .., .inl (State.endEngine_sts ..)⟩

/-- `ENV_IDEAL` stores nothing on a control transfer (20_memory.md R87). -/
theorem IdealAdapter.control_devices {a a' : IdealAdapter} {c : ControlWord} {r : Reply}
    (h : a.control c = some (r, a')) : a'.devices = a.devices := by
  unfold IdealAdapter.control at h
  split at h <;> cases h <;> rfl

/-- A control transfer changes no byte of device memory. -/
theorem Env.readByte_of_control {e e' : Env} {c : ControlWord} {r : Reply} (h : e.answer (.ctl c) = some (r, e'))
    (dev : DevAddr) (a : Nat) : e'.readByte dev a = e.readByte dev a := by
  cases e with
  | oracle rs =>
    cases rs with
    | nil => cases h
    | cons => cases h; rfl
  | ideal x =>
    obtain ⟨⟨r', x'⟩, hx, heq⟩ := Option.map_eq_some_iff.1 h
    cases heq
    simp only [Env.readByte, IdealAdapter.control_devices hx]

/-- Settles O42: the registers are kept on every outcome, and the environment changes by its answer to a control transfer
only. -/
theorem bridgeCommandsFrame : Obligations.BridgeCommandsFrame := by
  intro i s t hi h
  obtain ⟨c, hc⟩ : ∃ c, i.commandWord = some c := by
    rcases hi with rfl | rfl | rfl | ⟨a, st, sp, n, rfl⟩ | ⟨a, st, sp, n, rfl⟩ <;> exact ⟨_, rfl⟩
  obtain ⟨hd, rfl⟩ := due_of_exec_next hc h
  obtain ⟨hkept, hsts⟩ := hd.perform_frame (.ctl c)
  have hmem (dev : DevAddr) (a : Nat) :
      (s.perform (.ctl c) State.phaseDone).env.readByte dev a = s.env.readByte dev a := by
    rcases s.perform_records (.ctl c) with ⟨hsame, -⟩ | ⟨r, e, hans, he, -⟩
    · rw [hsame]
    · rw [he, Env.readByte_of_control hans]
  simp only [State.unwritten, Prod.mk.injEq] at hkept
  obtain ⟨htd, hpbuf, hrbuf, hcmp, hep, hbound, hreq, htime, hgrants⟩ := hkept
  exact ⟨htd, hpbuf, hrbuf, hcmp, hep, hbound, hreq, htime, hgrants, hsts, hmem⟩

end Sys2Proof.Machine
end

section
/-! The bound on a transfer, and the states in which nothing is accepted (60_exceptions.md R207, R208, R211). -/

namespace Sys2Proof.Machine

/-! A transfer that never returns -/

/-- Where `XFER_TIMEOUT` has a value, a transfer that never returns raises `TIMEOUT` (60_exceptions.md R207). -/
theorem State.perform_of_never_bounded {s : State} {x : Transfer} {e : Env} {n : Nat}
    (hans : s.env.answer x = some (.never, e)) (hbound : s.timeout = some n) (k : State → List Byte → State) :
    s.perform x k = (s.returned x .never e).raise .timeout := by
  simp [State.perform, hans, hbound]

/-- Where it has none, the transfer stays issued (60_exceptions.md R207, 70_reset_and_hazards.md R255). -/
theorem State.perform_of_never_unbounded {s : State} {x : Transfer} {e : Env}
    (hans : s.env.answer x = some (.never, e)) (hbound : s.timeout = none) (k : State → List Byte → State) :
    s.perform x k = s.issue x := by
  simp [State.perform, hans, hbound]

/-- Settles O26: with a bound the operation ends with an error in `FAILED`, where no step changes anything; with none the
step of the phase issues its transfer. -/
theorem timeoutOnlyWhereBounded : Obligations.TimeoutOnlyWhereBounded := by
  intro s x e hx hans
  have hstep := step_of_phaseTransfer s x hx
  refine ⟨fun n hbound => ?bounded, fun hbound => ?unbounded⟩
  case bounded =>
    let m : State := { s.returned x .never e with failed := true }
    obtain ⟨hhold, hviews, hviewsHeld, hresp, hrespHeld⟩ := m.endEngine_error .failed (c := .timeout) (by decide) rfl
    refine ⟨m.endEngine .failed ⟨.timeout, .none⟩, ?_, by simp, by simp [m], by simp, by simp [resultNumber], hhold,
      by simp [m], by simp [m], by simp [m], hviews, hviewsHeld, hresp, hrespHeld,
      fun k w => eq_of_after_of_terminal (by simp)⟩
    rw [hstep, State.perform_of_never_bounded hans hbound, State.raise_timeout]
  case unbounded => rw [hstep, State.perform_of_never_unbounded hans hbound]

/-! An unbound or failed engine -/

/-- Settles O46: by induction on the number of steps, none of which changes an unbound or failed engine. -/
theorem unboundAndFailedAcceptNothing : Obligations.UnboundAndFailedAcceptNothing := fun _ _ _ =>
  eq_of_after_of_terminal

/-! `ERR` without a bound -/

section
variable {s t : State}

/-- What follows a success leaves `ERR` alone, or the operation ends with `OK`. -/
theorem State.phaseDone_err (s : State) (bytes : List Byte) :
    (s.phaseDone bytes).err = s.err ∨ (s.phaseDone bytes).err = .ok := by
  rcases s.phaseDone_cases bytes with ⟨p, rbuf, sts, hto⟩ | ⟨sts, cmp, v, hto⟩ <;> rw [hto]
  · exact .inl rfl
  · exact .inr (State.endEngine_err _ _ _)

/-- Serving a request leaves `ERR` alone, ends an empty DUMP with `OK` (log 11), or fails the range check. -/
theorem State.Serves.err (h : s.Serves t) : t.err = s.err ∨ t.err = .ok ∨ t.err = .rangeExceeded := by
  cases h with
  | engine i => exact .inl (by rw [State.latch_frame])
  | holdToWrite | holdToRead => exact .inl rfl
  | outOfRange | endDump => exact .inr (.inr rfl)
  | startDump v k =>
    by_cases hk : k = 0#16
    · exact .inr (.inl (if_pos hk))
    · exact .inl (if_neg hk)

/-- Without a bound the transfer of a phase leaves `ERR` alone, or ends the operation with `OK` or `TRANSPORT_IO`. -/
theorem State.perform_err_of_unbounded (hbound : s.timeout = none) (x : Transfer) :
    (s.perform x State.phaseDone).err = s.err ∨ (s.perform x State.phaseDone).err = .ok
      ∨ (s.perform x State.phaseDone).err = .transportIo := by
  rcases s.perform_cases x State.phaseDone with
    ⟨hto, -⟩ | ⟨bytes, e, -, -, hto⟩ | ⟨r, e, -, -, hto⟩ | ⟨e, n, -, hsome, -⟩
  · exact .inl (by rw [hto, State.issue_err])
  · rw [hto]
    exact ((s.returned x (.ok bytes) e).phaseDone_err bytes).imp id .inl
  · exact .inr (.inr (by rw [hto, State.raise_transportIo, State.endEngine_err]))
  · simp [hbound] at hsome

/-- Without a bound no case of a step brings `TIMEOUT` into `ERR`. -/
theorem State.StepCase.err_ne_timeout (h : s.StepCase t) (hbound : s.timeout = none) (herr : s.err ≠ .timeout) :
    t.err ≠ .timeout := by
  cases h with
  | waits => exact herr
  | serves k p t ha hw hs =>
    rcases hs.err with hto | hto | hto <;> simp [hto, herr]
  | viewIssues h i =>
    rw [State.latch_frame]
    exact herr
  | transfers x =>
    rcases State.perform_err_of_unbounded hbound x with hto | hto | hto <;> simp [hto, herr]
  | aborts => simp [State.raise_busBusy]

end

/-- Settles O52: no step writes `XFER_TIMEOUT`, and none raises `TIMEOUT` without it. -/
theorem noTimeoutByDefault : Obligations.NoTimeoutByDefault := by
  intro s t hbound herr h
  obtain ⟨-, -, htimeout, -⟩ := configurationIsNeverWritten s t h
  exact ⟨htimeout.trans hbound, (stepCase_of_step h).err_ne_timeout hbound herr⟩

end Sys2Proof.Machine
end

section
/-! A transfer that is not answered (70_reset_and_hazards.md R255). -/

namespace Sys2Proof.Machine

/-- A transfer that is not answered is issued, and nothing else happens. -/
theorem State.perform_of_unanswered {s : State} {x : Transfer}
    (hwait : s.env.answer x = none ∨ (∃ e, s.env.answer x = some (.never, e)) ∧ s.timeout = none)
    (k : State → List Byte → State) : s.perform x k = s.issue x := by
  rcases hwait with hnone | ⟨⟨e, hnever⟩, hbound⟩
  · exact s.perform_of_wait x k hnone
  · exact State.perform_of_never_unbounded hnever hbound k

/-- Settles O27: the first step issues the transfer, and then the machine stays in the phase, which `after_issue` proves by
induction on the number of steps. -/
theorem unansweredTransferWaitsForEver : Obligations.UnansweredTransferWaitsForEver := by
  intro s x hx hwait k
  have hstep : step s = .next (s.issue x) := by
    rw [step_of_phaseTransfer s x hx, State.perform_of_unanswered hwait]
  calc s.after (k + 1) = (s.issue x).after k := State.after_succ_of_next k s _ hstep
    _ = .next (s.issue x) := after_issue hx hwait k

end Sys2Proof.Machine
end
